-- ==== Sys2Proof/Word.lean ====
section
/-! DEFINITION. The byte type of every bus transfer and of the payload buffer. -/

namespace Sys2Proof

/-- Eight data bits: what one bus transfer moves and what one BUF cell holds (20_memory R45, 10_state R29). -/
abbrev Byte := BitVec 8

end Sys2Proof
end

