-- ==== Sys2Proof/Config.lean ====
section
/-! DEFINITION. What an implementation fixes (00_scope R7). The decided parameters are numbers; the OPEN ones are
opaque constants, of which no proof can know the value. -/

namespace Sys2Proof

/-- DIV_WIDTH, the width of the baud divisor field: decided 8 (00_scope R7, D12). -/
abbrev Config.divWidth : Nat := 8

/-- LEN_WIDTH, the width of a payload length: decided 16 (00_scope R7, D13). -/
abbrev Config.lenWidth : Nat := 16

/-- The OPEN parameters of one block (00_scope R7). They are no state (10_state R33): `exec` has no other argument to
take them from, so a state carries them, and no step changes them (log entry 1). -/
structure Params where
  /-- SYSCLK_HZ, the system clock frequency in Hz. -/
  sysclkHz : Nat
  /-- N_INSTANCES, the number of physical bus instances, at least 1. -/
  nInst : Nat
  /-- INSTANCE, the physical bus this block is bound to, below N_INSTANCES. -/
  inst : Nat
  /-- RETRY_BUDGET, the largest number of snapshots of one bounded wait, at least 1. -/
  retryBudget : Nat
  /-- BUF_SIZE, the size of BUF in bytes, 1 to 65536. -/
  bufSize : Nat
  /-- HOST_BASE, the base address of the host registers. -/
  hostBase : Nat
  deriving DecidableEq, Repr

/-- The ranges 00_scope R7 gives the OPEN parameters. -/
def Params.wf (p : Params) : Bool :=
  decide (1 ≤ p.nInst) && decide (p.inst < p.nInst) && decide (1 ≤ p.retryBudget)
    && decide (1 ≤ p.bufSize) && decide (p.bufSize ≤ 65536)

/-- SYSCLK_HZ: OPEN (00_scope R7, D27), a free value. -/
opaque Config.sysclkHz : Nat

/-- N_INSTANCES - 1: OPEN, a free value. -/
opaque Config.nInstPred : Nat

/-- A number whose remainder by N_INSTANCES is the INSTANCE of the block that `State.reset` describes: OPEN, a free
value. -/
opaque Config.instRaw : Nat

/-- RETRY_BUDGET - 1 of the block on an instance: OPEN, a free value. -/
opaque Config.retryBudgetPred : Nat → Nat

/-- A number whose remainder by 65536 is BUF_SIZE - 1 of the block on an instance: OPEN, a free value. -/
opaque Config.bufSizeRaw : Nat → Nat

/-- HOST_BASE of the block on an instance: OPEN, a free value. -/
opaque Config.hostBase : Nat → Nat

/-- N_INSTANCES of the platform (00_scope R7). -/
def Config.nInstances : Nat := Config.nInstPred + 1

/-- The parameters of the block on instance `k`: the platform's clock and number of instances, and the block's own
budget, buffer size and base address (log entry 1). -/
def Config.paramsOf (k : Nat) : Params where
  sysclkHz := Config.sysclkHz
  nInst := Config.nInstances
  inst := k
  retryBudget := Config.retryBudgetPred k + 1
  bufSize := Config.bufSizeRaw k % 65536 + 1
  hostBase := Config.hostBase k

/-- The parameters of the machine that `State.reset` describes: every choice that 00_scope R7 allows, and none
singled out. -/
def Config.params : Params := Config.paramsOf (Config.instRaw % Config.nInstances)

/-- What byte `i` of BUF of the block on instance `inst` holds at power-on: "unspecified (a model must not assume any
value; reading a byte nothing has written is a draw from 0 to 255)" (10_state R29, 93 U13). A free value of the
instance and the index, so the bytes of two blocks are not related; that it is the same at each read is the model's
choice (log entry 2). -/
opaque Config.bufInit (inst i : Nat) : Byte

end Sys2Proof
end

