-- ==== Sys2Proof/Syntax.lean ====
section
/-! DEFINITION. The instructions: one constructor for each row of spec/opcode_table.json, the five host commands of
format CD (30_encoding R61) and the fourteen line-unit operations of format LU (30_encoding R66). -/

namespace Sys2Proof

/-- The acknowledge answer of one byte (00_scope R9). As the bit of LU_CMD.ACKACT, ACK is 0 and NACK is 1 (10_state R22). -/
inductive Ack where
  | ack
  | nack
  deriving DecidableEq, Repr

/-- One instruction, with the operands its row of the table gives it. -/
inductive Instr where
  /-- INIT: `baud` in Hz (41_initialize R110). -/
  | init (baud : BitVec 32)
  /-- WRITE: device, payload length, HOLD (42_write R120). -/
  | write (dev : BitVec 7) (len : BitVec 16) (hold : Bool)
  /-- READ: device, payload length (43_read R140). -/
  | read (dev : BitVec 7) (len : BitVec 16)
  /-- WRITE_REGS: device, register offset, address size, payload length, HOLD (44_register_access R165). -/
  | writeRegs (dev : BitVec 7) (reg : BitVec 16) (asize : BitVec 2) (len : BitVec 16) (hold : Bool)
  /-- READ_REGS: device, register offset, address size, payload length (44_register_access R169). -/
  | readRegs (dev : BitVec 7) (reg : BitVec 16) (asize : BitVec 2) (len : BitVec 16)
  /-- CLKEN (40_line_unit_ops R80). -/
  | clken
  /-- PINMUX (40_line_unit_ops R81). -/
  | pinmux
  /-- SWRST (40_line_unit_ops R82). -/
  | swrst
  /-- SETMODE (40_line_unit_ops R83). -/
  | setmode
  /-- SETBAUD: the divisor, DIV_WIDTH bits (40_line_unit_ops R84). -/
  | setbaud (d : BitVec Config.divWidth)
  /-- ENABLE (40_line_unit_ops R85). -/
  | enable
  /-- SNAP (40_line_unit_ops R86). -/
  | snap
  /-- ERRCLR (40_line_unit_ops R87). -/
  | errclr
  /-- FORCEIDLE (40_line_unit_ops R88). -/
  | forceidle
  /-- START (40_line_unit_ops R89). -/
  | start
  /-- ADDR: the address byte (40_line_unit_ops R90). -/
  | addr (b : Byte)
  /-- TX: the data byte (40_line_unit_ops R91). -/
  | tx (b : Byte)
  /-- RX: the acknowledge action for the byte taken (40_line_unit_ops R92). -/
  | rx (a : Ack)
  /-- STOP (40_line_unit_ops R93). -/
  | stop
  deriving DecidableEq, Repr

end Sys2Proof
end

