-- ==== Sys2Proof/WellFormed.lean ====
section
/-! DEFINITION. The checks on an instruction that do not look at the machine's state: the extra conditions of
30_encoding R62 but for INITED, which the launch checks. -/

namespace Sys2Proof

/-- "ASIZE in {1, 2}" (30_encoding R62); 0 and 3 are illegal (30_encoding R67). -/
def asizeOk (asize : BitVec 2) : Bool := asize == 1#2 || asize == 2#2

/-- An instruction that some word encodes: the address size is 1 or 2 where the instruction has one. -/
def Instr.wellFormed : Instr → Bool
  | .init _ => true
  | .write _ _ _ => true
  | .read _ _ => true
  | .writeRegs _ _ asize _ _ => asizeOk asize
  | .readRegs _ _ asize _ => asizeOk asize
  | .clken => true
  | .pinmux => true
  | .swrst => true
  | .setmode => true
  | .setbaud _ => true
  | .enable => true
  | .snap => true
  | .errclr => true
  | .forceidle => true
  | .start => true
  | .addr _ => true
  | .tx _ => true
  | .rx _ => true
  | .stop => true

/-- "LEN > BUF_SIZE is refused, because the payload would not fit BUF" (30_encoding R70). -/
def lenOk (p : Params) (len : BitVec 16) : Bool := decide (len.toNat ≤ p.bufSize)

/-- `q = SYSCLK_HZ div (2 * baud)` (41_initialize R112); the product is formed without overflow. -/
def baudQuotient (p : Params) (baud : BitVec 32) : Nat := p.sysclkHz / (2 * baud.toNat)

/-- The three baud checks of 41_initialize R112: `baud != 0`, `q >= 1`, `q - 1 < 2^DIV_WIDTH`. -/
def baudOk (p : Params) (baud : BitVec 32) : Bool :=
  if baud.toNat = 0 then false
  else decide (1 ≤ baudQuotient p baud) && decide (baudQuotient p baud - 1 < 2 ^ Config.divWidth)

/-- The state-free part of a command's legality on a block with parameters `p` (30_encoding R62, R67). A line-unit
operation has no such condition. -/
def Instr.legal (p : Params) : Instr → Bool
  | .init baud => baudOk p baud
  | .write _ len _ => lenOk p len
  | .read _ len => lenOk p len
  | .writeRegs _ _ asize len _ => asizeOk asize && lenOk p len
  | .readRegs _ _ asize len => asizeOk asize && lenOk p len
  | .clken => true
  | .pinmux => true
  | .swrst => true
  | .setmode => true
  | .setbaud _ => true
  | .enable => true
  | .snap => true
  | .errclr => true
  | .forceidle => true
  | .start => true
  | .addr _ => true
  | .tx _ => true
  | .rx _ => true
  | .stop => true

/-- Is the instruction one of the five host commands (format CD)? -/
def Instr.isCommand : Instr → Bool
  | .init _ => true
  | .write _ _ _ => true
  | .read _ _ => true
  | .writeRegs _ _ _ _ _ => true
  | .readRegs _ _ _ _ => true
  | .clken => false
  | .pinmux => false
  | .swrst => false
  | .setmode => false
  | .setbaud _ => false
  | .enable => false
  | .snap => false
  | .errclr => false
  | .forceidle => false
  | .start => false
  | .addr _ => false
  | .tx _ => false
  | .rx _ => false
  | .stop => false

end Sys2Proof
end

