-- ==== Sys2Proof/Decode.lean ====
section
/-! DEFINITION. Decoding and encoding: the 64-bit command descriptor of format CD (30_encoding R60 to R62), laid out
little-endian in the host register space (20_memory R43), and the line-unit register access of format LU
(30_encoding R66). -/

namespace Sys2Proof

/-- Why a word is no instruction (30_encoding R67). -/
inductive DecodeError where
  /-- OP is 0x0 or 0x6 to 0xF. -/
  | reservedOp
  /-- OP names a command, but a reserved bit is set, an unused field is not 0, or ARG[31:16] is not 0 on a transfer
  command: `(d AND mask) != match`. -/
  | unusedField
  /-- ASIZE is 0 or 3 on WRITE_REGS or READ_REGS. -/
  | badAsize
  /-- No line-unit operation makes this register access. -/
  | noOperation
  /-- The word has more bits than a descriptor. -/
  | tooWide
  deriving DecidableEq, Repr

/-! ### Format CD -/

/-- A row of the table of 30_encoding R62. -/
structure CdRow where
  bits : BitVec 64
  mask : BitVec 64
  deriving DecidableEq, Repr

/-- INIT's row (30_encoding R62). -/
def CdRow.init : CdRow := ⟨0x0000000000000001#64, 0x00000000FFFFFFFF#64⟩

/-- WRITE's row (30_encoding R62). -/
def CdRow.write : CdRow := ⟨0x0000000000000002#64, 0xFFFF0000FFFF80EF#64⟩

/-- READ's row (30_encoding R62). -/
def CdRow.read : CdRow := ⟨0x0000000000000003#64, 0xFFFF0000FFFF80FF#64⟩

/-- WRITE_REGS's row (30_encoding R62). -/
def CdRow.writeRegs : CdRow := ⟨0x0000000000000004#64, 0xFFFF00000000808F#64⟩

/-- READ_REGS's row (30_encoding R62). -/
def CdRow.readRegs : CdRow := ⟨0x0000000000000005#64, 0xFFFF00000000809F#64⟩

/-- The five rows in the order of the table. -/
def CdRow.all : List CdRow := [.init, .write, .read, .writeRegs, .readRegs]

/-- `(d AND mask) = match` (30_encoding R62). -/
def CdRow.admits (r : CdRow) (d : BitVec 64) : Bool := d &&& r.mask == r.bits

/-- OP, bits [3:0] of a descriptor (30_encoding R60). -/
def cdOp (d : BitVec 64) : BitVec 4 := d.extractLsb' 0 4

/-- HOLD, bit [4]. -/
def cdHold (d : BitVec 64) : Bool := d.getLsbD 4

/-- ASIZE, bits [6:5]. -/
def cdAsize (d : BitVec 64) : BitVec 2 := d.extractLsb' 5 2

/-- DEV, bits [14:8]. -/
def cdDev (d : BitVec 64) : BitVec 7 := d.extractLsb' 8 7

/-- REG, bits [31:16]. -/
def cdReg (d : BitVec 64) : BitVec 16 := d.extractLsb' 16 16

/-- ARG, bits [63:32]. -/
def cdArg (d : BitVec 64) : BitVec 32 := d.extractLsb' 32 32

/-- LEN = ARG[15:0], bits [47:32]. -/
def cdLen (d : BitVec 64) : BitVec 16 := d.extractLsb' 32 16

/-- The instruction if the address size is legal (30_encoding R67). -/
def withAsize (asize : BitVec 2) (i : Instr) : Except DecodeError Instr :=
  if asizeOk asize then .ok i else .error .badAsize

/-- The command a descriptor encodes (30_encoding R60 to R62), or why it encodes none (30_encoding R67). -/
def decodeCmd (d : BitVec 64) : Except DecodeError Instr :=
  if CdRow.init.admits d then .ok (.init (cdArg d))
  else if CdRow.write.admits d then .ok (.write (cdDev d) (cdLen d) (cdHold d))
  else if CdRow.read.admits d then .ok (.read (cdDev d) (cdLen d))
  else if CdRow.writeRegs.admits d then
    withAsize (cdAsize d) (.writeRegs (cdDev d) (cdReg d) (cdAsize d) (cdLen d) (cdHold d))
  else if CdRow.readRegs.admits d then
    withAsize (cdAsize d) (.readRegs (cdDev d) (cdReg d) (cdAsize d) (cdLen d))
  else if cdOp d == 0#4 || (5#4).ult (cdOp d) then .error .reservedOp
  else .error .unusedField

/-- A descriptor from its fields: OP in bits [3:0], HOLD in bit [4], ASIZE in [6:5], DEV in [14:8], REG in [31:16], ARG
in [63:32]; bits [7] and [15] are 0 (30_encoding R60). -/
def cdWord (op : BitVec 4) (hold : Bool) (asize : BitVec 2) (dev : BitVec 7) (reg : BitVec 16) (arg : BitVec 32) :
    BitVec 64 :=
  op.setWidth 64 ||| (BitVec.ofBool hold).setWidth 64 <<< 4 ||| asize.setWidth 64 <<< 5 ||| dev.setWidth 64 <<< 8
    ||| reg.setWidth 64 <<< 16 ||| arg.setWidth 64 <<< 32

/-! ### Bytes, little-endian (20_memory R43) -/

/-- The low `n` bytes of `w`, least significant first. -/
def toBytesLE : Nat → Nat → List Byte
  | 0, _ => []
  | n + 1, w => BitVec.ofNat 8 w :: toBytesLE n (w / 256)

/-- The number whose bytes these are, least significant first. -/
def fromBytesLE : List Byte → Nat
  | [] => 0
  | b :: bs => b.toNat + 256 * fromBytesLE bs

/-- The descriptor that the eight bytes at HOST_BASE + 0x00 make: "the byte at HOST_BASE + 0x00 is CMD[7:0]"
(20_memory R43). -/
def cmdOfBytes (bs : List Byte) : BitVec 64 := BitVec.ofNat 64 (fromBytesLE bs)

/-! ### Format LU -/

/-- What a line-unit access reaches: the two external bits of 10_state R28, a line-unit register of 10_state R20 to
R25, or LU_STATUS and LU_FLAGS together (SNAP, 40_line_unit_ops R86). -/
inductive LuTarget where
  | extClken
  | extPinmux
  | luCtrl
  | luBaud
  | luCmd
  | luStatus
  | luFlags
  | luAddr
  | luData
  | statusAndFlags
  deriving DecidableEq, Repr

/-- The LU index of a register (10_state R20 to R25); the external bits and the pair have none of their own. -/
def LuTarget.index : LuTarget → Option Nat
  | .extClken => none
  | .extPinmux => none
  | .luCtrl => some 0
  | .luBaud => some 1
  | .luCmd => some 2
  | .luStatus => some 3
  | .luFlags => some 4
  | .luAddr => some 5
  | .luData => some 6
  | .statusAndFlags => none

/-- The column "access" of 30_encoding R66. -/
inductive LuKind where
  | write
  | readModifyWrite
  | read
  | writeReadWrite
  deriving DecidableEq, Repr

/-- One access on the line unit's register interface: the register, how it is accessed, and the pattern written
(30_encoding R66). The one-bit requests to the external collaborators are the pattern's bit 0. -/
structure LuAccess where
  target : LuTarget
  kind : LuKind
  pattern : Byte
  deriving DecidableEq, Repr

/-- The operation of a read-modify-write of LU_CMD: `00000-01` is START and `00000-11` is STOP, bit 2 being left
unchanged and so not looked at (30_encoding R66). -/
def decodeLuCmd (p : Byte) : Except DecodeError Instr :=
  if p &&& 0xFB#8 = 0x01#8 then .ok .start
  else if p &&& 0xFB#8 = 0x03#8 then .ok .stop
  else .error .noOperation

/-- The acknowledge action in bit 2 of the first access of RX, `00000a--` (30_encoding R66). -/
def decodeRx (p : Byte) : Except DecodeError Instr :=
  if p &&& 0xF8#8 = 0#8 then .ok (.rx (if p.getLsbD 2 then .nack else .ack))
  else .error .noOperation

/-- The instruction if the pattern written is the one of its row. -/
def onPattern (p want : Byte) (i : Instr) : Except DecodeError Instr :=
  if p = want then .ok i else .error .noOperation

/-- The operation a line-unit access is (30_encoding R66), or that it is none. -/
def decodeLu (a : LuAccess) : Except DecodeError Instr :=
  match a.target, a.kind with
  | .extClken, .write => onPattern a.pattern 0x01#8 .clken
  | .extPinmux, .write => onPattern a.pattern 0x01#8 .pinmux
  | .luCtrl, .write => onPattern a.pattern 0x01#8 .swrst
  | .luCtrl, .readModifyWrite =>
      if a.pattern = 0x04#8 then .ok .setmode else onPattern a.pattern 0x06#8 .enable
  | .luBaud, .write => .ok (.setbaud a.pattern)
  | .statusAndFlags, .read => .ok .snap
  | .luStatus, .write =>
      if a.pattern = 0x04#8 then .ok .errclr else onPattern a.pattern 0x01#8 .forceidle
  | .luCmd, .readModifyWrite => decodeLuCmd a.pattern
  | .luAddr, .write => .ok (.addr a.pattern)
  | .luData, .write => .ok (.tx a.pattern)
  | .luCmd, .writeReadWrite => decodeRx a.pattern
  | _, _ => .error .noOperation

/-! ### Both formats -/

/-- What carries an instruction: a word written to CMD, or an access on the line unit's register interface. -/
inductive Encoded where
  | cd (d : BitVec 64)
  | lu (a : LuAccess)
  deriving DecidableEq, Repr

/-- The decoder, total, rejecting by name. -/
def decode : Encoded → Except DecodeError Instr
  | .cd d => decodeCmd d
  | .lu a => decodeLu a

/-- LU_CMD with its two low bits replaced: what START and STOP write when LU_CMD holds `cur` (30_encoding R66). -/
def luCmdPattern (cur : Byte) (low : BitVec 2) : Byte := 0#5 ++ (cur.extractLsb' 2 1 ++ low)

/-- The acknowledge action as the bit LU_CMD.ACKACT (10_state R22). -/
def Ack.bit : Ack → BitVec 1
  | .ack => 0#1
  | .nack => 1#1

/-- The encoding of an instruction, written from 30_encoding R60 and R66. `cur` is what LU_CMD holds, which a
read-modify-write leaves in the bits it does not name. -/
def encode (i : Instr) (cur : Byte) : Encoded :=
  match i with
  | .init baud => .cd (cdWord 1#4 false 0#2 0#7 0#16 baud)
  | .write dev len hold => .cd (cdWord 2#4 hold 0#2 dev 0#16 (len.setWidth 32))
  | .read dev len => .cd (cdWord 3#4 false 0#2 dev 0#16 (len.setWidth 32))
  | .writeRegs dev reg asize len hold => .cd (cdWord 4#4 hold asize dev reg (len.setWidth 32))
  | .readRegs dev reg asize len => .cd (cdWord 5#4 false asize dev reg (len.setWidth 32))
  | .clken => .lu ⟨.extClken, .write, 0x01#8⟩
  | .pinmux => .lu ⟨.extPinmux, .write, 0x01#8⟩
  | .swrst => .lu ⟨.luCtrl, .write, 0x01#8⟩
  | .setmode => .lu ⟨.luCtrl, .readModifyWrite, 0x04#8⟩
  | .setbaud d => .lu ⟨.luBaud, .write, d⟩
  | .enable => .lu ⟨.luCtrl, .readModifyWrite, 0x06#8⟩
  | .snap => .lu ⟨.statusAndFlags, .read, 0x00#8⟩
  | .errclr => .lu ⟨.luStatus, .write, 0x04#8⟩
  | .forceidle => .lu ⟨.luStatus, .write, 0x01#8⟩
  | .start => .lu ⟨.luCmd, .readModifyWrite, luCmdPattern cur 1#2⟩
  | .addr b => .lu ⟨.luAddr, .write, b⟩
  | .tx b => .lu ⟨.luData, .write, b⟩
  | .rx a => .lu ⟨.luCmd, .writeReadWrite, 0#5 ++ (a.bit ++ cur.extractLsb' 0 2)⟩
  | .stop => .lu ⟨.luCmd, .readModifyWrite, luCmdPattern cur 3#2⟩

/-! ### Words numbered as the opcode table numbers them -/

/-- The access an 8-bit pattern stands for when its register is not given. The table names the register beside the
pattern, not in it, and several rows share a pattern, so this picks the row with the most fixed bits that admits the
pattern, the first such row of the table where several do (log entry 5). DESIGN CHOICE. -/
def bareAccess (p : Byte) : LuAccess :=
  if p = 0x01#8 then ⟨.luCtrl, .write, p⟩
  else if p = 0x04#8 then ⟨.luCtrl, .readModifyWrite, p⟩
  else if p = 0x06#8 then ⟨.luCtrl, .readModifyWrite, p⟩
  else if p &&& 0xFB#8 = 0x01#8 then ⟨.luCmd, .readModifyWrite, p⟩
  else if p &&& 0xFB#8 = 0x03#8 then ⟨.luCmd, .readModifyWrite, p⟩
  else if p &&& 0xF8#8 = 0#8 then ⟨.luCmd, .writeReadWrite, p⟩
  else ⟨.luBaud, .write, p⟩

/-- What carries an instruction whose bits are `w`, numbered as the opcode table numbers them: at most 8 bits are a
line-unit pattern, more are a descriptor, whose bytes lie little-endian at CMD. -/
def tableWord (nbits w : Nat) : Except DecodeError Encoded :=
  if nbits ≤ 8 then .ok (.lu (bareAccess (BitVec.ofNat 8 w)))
  else if nbits ≤ 64 then .ok (.cd (cmdOfBytes (toBytesLE 8 w)))
  else .error .tooWide

/-- The instruction the decoder reads from a word numbered as the opcode table numbers it. -/
def decodeTableWord (nbits w : Nat) : Option Instr :=
  match tableWord nbits w with
  | .error _ => none
  | .ok e =>
    match decode e with
    | .ok i => some i
    | .error _ => none

end Sys2Proof
end

