-- ==== Sys2Proof/Machine/State.lean ====
section
/-! DEFINITION. The state of the machine: every piece of state 10_state gives it, the reasons a step can stop, and
the state after power-on reset (10_state R32). -/

namespace Sys2Proof.Machine

/-- PHASE, the sequencer's program counter (10_state R14). Codes 14 and 15 are never taken and have no value here
(93 U17). -/
inductive Phase where
  | idle
  | init
  | errchk
  | idlechk
  | idlewait
  | start
  | addr
  | addrwait
  | txbyte
  | txwait
  | rxwait
  | rxbyte
  | stop
  | done
  deriving DecidableEq, Repr

/-- RESULT.FAIL, the first failure of the last command (10_state R12). Codes 5 to 7 are never written and have no
value here (93 U17). -/
inductive Fail where
  | none
  | addrNack
  | dataNack
  | busError
  | pollTimeout
  deriving DecidableEq, Repr

/-- LU_STATUS.BUSSTATE (10_state R23). -/
inductive BusState where
  | unknown
  | idle
  | owner
  | busy
  deriving DecidableEq, Repr

/-- LU_CMD.CMD, the last command issued (10_state R22). -/
inductive LuCmd where
  | none
  | start
  | read
  | stop
  deriving DecidableEq, Repr

/-- PEND, the byte in flight on the bus (10_state R26). -/
inductive Pend where
  | none
  | addrw
  | addrr
  | txb
  | rxb
  deriving DecidableEq, Repr

/-- An event of TRACE (10_state R27). `start true` is a repeated START. -/
inductive Event where
  | clken
  | pinmux
  | swrst
  | mode
  | baud (d : BitVec Config.divWidth)
  | enable
  | errclr
  | forceidle
  | start (r : Bool)
  | addr (b : Byte)
  | tx (b : Byte)
  | rx (b : Byte) (a : Ack)
  | stop
  deriving DecidableEq, Repr

/-- A snapshot: the 5-tuple one SNAP reads (10_state R34). -/
structure Snapshot where
  busState : BusState
  busErr : Bool
  rxNack : Bool
  txDone : Bool
  rxRdy : Bool
  deriving DecidableEq, Repr

/-- The line unit: the fields of its seven registers (10_state R20 to R25) and its hidden state (10_state R26).
Reserved bits read 0 and are no storage (93 U17). -/
structure LineUnit where
  /-- LU_CTRL.ENABLE -/
  enable : Bool
  /-- LU_CTRL.MODE -/
  mode : Bool
  /-- LU_BAUD.DIV -/
  div : BitVec Config.divWidth
  /-- LU_CMD.CMD -/
  cmd : LuCmd
  /-- LU_CMD.ACKACT -/
  ackAct : Ack
  /-- LU_STATUS.BUSSTATE -/
  busState : BusState
  /-- LU_STATUS.BUSERR -/
  busErr : Bool
  /-- LU_STATUS.RXNACK -/
  rxNack : Bool
  /-- LU_FLAGS.TXDONE -/
  txDone : Bool
  /-- LU_FLAGS.RXRDY -/
  rxRdy : Bool
  /-- LU_ADDR -/
  addr : Byte
  /-- LU_DATA -/
  data : Byte
  /-- PEND -/
  pend : Pend
  /-- IDLEREQ -/
  idleReq : Bool
  deriving DecidableEq, Repr

/-- The line unit at its reset values, which power-on and SWRST both give it (10_state R32). -/
def LineUnit.reset : LineUnit where
  enable := false
  mode := false
  div := 0
  cmd := .none
  ackAct := .ack
  busState := .unknown
  busErr := false
  rxNack := false
  txDone := false
  rxRdy := false
  addr := 0
  data := 0
  pend := .none
  idleReq := false

/-- A move of the bus agent (40_line_unit_ops R96 to R101). -/
inductive BusMove where
  /-- BA.TxDone(k), R96. -/
  | txDone (k : Ack)
  /-- BA.AddrRead(k), R97. -/
  | addrRead (k : Ack)
  /-- BA.RxByte(v), R98. -/
  | rxByte (v : Byte)
  /-- BA.IdleForced, R99. -/
  | idleForced
  /-- BA.BusError, R100. -/
  | busError
  /-- BA.BusState(s), R101. -/
  | busState (s : BusState)
  deriving DecidableEq, Repr

/-- What the environment does between two sequencer steps: a move of the bus agent, or a cycle of the system clock
that the clock divider counts (40_line_unit_ops R109). -/
inductive EnvMove where
  | bus (m : BusMove)
  | sysClock
  deriving DecidableEq, Repr

/-- An access of the host: to the host registers, at an offset from HOST_BASE (20_memory R47), or to BUF, by index
(10_state R29). A write carries the bytes in address order. -/
inductive HostAct where
  | writeReg (off : Nat) (bytes : List Byte)
  | readReg (off : Nat) (n : Nat)
  | writeBuf (i : Nat) (v : Byte)
  | readBuf (i : Nat)
  deriving DecidableEq, Repr

/-- The model's own stops of a machine that goes outside what exists. -/
inductive Fault where
  /-- A BUF index at or above BUF_SIZE. Raised by `readBuf` and `writeBuf`, for the host's accesses and for the
  sequencer's in states that no run reaches. Safe: the machine stops where the spec has no such byte (00_scope R8). -/
  | bufIndex (i : Nat)
  deriving DecidableEq, Repr

/-- The spec's `refuse`: "the spec gives the situation no behaviour. A model gives it no step" (00_scope R8). Every
one is safe: nothing is claimed of what the hardware then does. -/
inductive Refusal where
  /-- An instruction without a meaning yet. Raised by no arm of `exec`. -/
  | notModelled (mnemonic : String)
  /-- A word written to CMD that is no legal descriptor (30_encoding R67). Raised by the host's write of CMD. -/
  | illegalDescriptor (e : DecodeError)
  /-- A line-unit access that is no operation (30_encoding R66). Raised by an access placed on the line unit's port. -/
  | illegalAccess (e : DecodeError)
  /-- ASIZE outside 1 and 2 (30_encoding R67, 93 U2). Raised by WRITE_REGS and READ_REGS. -/
  | badAsize
  /-- A baud rate that fails 41_initialize R112 (93 U11). Raised by INIT. -/
  | badBaud
  /-- LEN above BUF_SIZE (30_encoding R70). Raised by the four transfer commands. -/
  | lenTooLong
  /-- A transfer command while INITED = 0 (70 R225, 93 U12). -/
  | notInitialised
  /-- INIT while INITED = 1 (70 R226, 93 U1). -/
  | alreadyInitialised
  /-- A command or a host access while PHASE is not IDLE (70 R229, 93 U18). -/
  | busy
  /-- A host access to CMD or RESULT of another width or place (20_memory R44, 93 U18). -/
  | badHostAccess
  /-- A line-unit register access while EXT_CLKEN = 0 (40_line_unit_ops R94). -/
  | clockOff
  /-- ERRCLR, FORCEIDLE, START, ADDR, TX, RX or STOP while LU_CTRL.ENABLE = 0 (40_line_unit_ops R94). -/
  | notEnabled
  /-- SETMODE or SETBAUD while LU_CTRL.ENABLE = 1 ("Requires ENABLE = 0", 40_line_unit_ops R83, R84). -/
  | alreadyEnabled
  /-- RX while RXRDY = 0 ("Requires RXRDY = 1", 40_line_unit_ops R92). -/
  | rxNotReady
  /-- Two blocks bound to one physical instance (70 R230, 93 U4). Raised by a platform, never by one block. -/
  | sharedInstance
  /-- Blocks that are not one for each of the N_INSTANCES bus instances (60_exceptions R205). Raised by a platform. Safe:
  the spec describes no such platform (log entry 20). -/
  | incompletePlatform
  deriving DecidableEq, Repr

/-- The whole state of one block. -/
structure State where
  /-- The OPEN parameters (00_scope R7); no step changes them (log entry 1). -/
  params : Params
  /-- CMD (10_state R11). -/
  cmd : BitVec 64
  /-- RESULT.COUNT (10_state R12). -/
  count : BitVec 17
  /-- RESULT.FAIL (10_state R12). -/
  fail : Fail
  /-- OP (10_state R13). -/
  op : BitVec 4
  /-- HOLD (10_state R13). -/
  hold : Bool
  /-- ASIZE (10_state R13). -/
  asize : BitVec 2
  /-- DEV (10_state R13). -/
  dev : BitVec 7
  /-- REG (10_state R13). -/
  reg : BitVec 16
  /-- ARG (10_state R13). -/
  arg : BitVec 32
  /-- PHASE (10_state R14). -/
  phase : Phase
  /-- IDX (10_state R15). -/
  idx : BitVec 17
  /-- RETRY (10_state R15), "enough bits for RETRY_BUDGET" (log entry 17). -/
  retry : Nat
  /-- FR0 (10_state R15). -/
  fr0 : Byte
  /-- FR1 (10_state R15). -/
  fr1 : Byte
  /-- STAGE (10_state R15): true is 1, the read phase of READ_REGS. -/
  stage : Bool
  /-- BAUDRATE (10_state R15). -/
  baudrate : BitVec 32
  /-- HELD (10_state R17). -/
  held : Bool
  /-- INITED (10_state R18). -/
  inited : Bool
  /-- The line unit's registers and hidden state (10_state R20 to R26). -/
  lu : LineUnit
  /-- EXT_CLKEN (10_state R28). -/
  extClken : Bool
  /-- EXT_PINMUX (10_state R28). -/
  extPinmux : Bool
  /-- The clock divider's down counter (60_exceptions R203, 40_line_unit_ops R109). -/
  divCnt : BitVec Config.divWidth
  /-- Which half of the SCL period the divider is in (40_line_unit_ops R109). -/
  sclHalf : Bool
  /-- BUF (10_state R29): the bytes written so far, by strictly rising index. -/
  buf : List Host.Cell
  /-- TRACE (10_state R27), oldest event first. -/
  trace : List Event
  /-- The snapshot the sequencer keeps until it has tested it (10_state R34). -/
  snap : Snapshot
  /-- The byte the last RX returned (40_line_unit_ops R92, `return v`; log entry 6). -/
  rxVal : Byte
  /-- The count the phase procedure that ended last returned, `(k, f)` (42_write R121, 43_read R141; log entry 6). -/
  ret : BitVec 17
  /-- The finer position inside ERRCHK and IDLECHK: the snapshot has been tested and ERRCLR or FORCEIDLE comes next
  (45_recovery R180; log entry 6). -/
  act : Bool
  /-- The environment's moves to come, one slot for each step (log entry 3). -/
  agent : List (List EnvMove)
  /-- How many environment turns have passed: the argument of the free moves (log entry 3). -/
  tick : Nat
  /-- The host's accesses to come, oldest first (log entry 4). -/
  host : List HostAct
  /-- The bytes the host's last read returned (log entry 4). -/
  hostOut : List Byte
  /-- A line-unit access placed from outside the sequencer; none in every run from reset (log entry 5). -/
  luPort : Option LuAccess
  deriving DecidableEq, Repr

/-- The state power-on reset leaves (10_state R32, 70 R220). BUF lists nothing, so each of its bytes reads as a free
value. The fields that 10_state does not name hold the values of log entries 1, 3, 4, 5, 6 and 12. -/
def State.reset : State where
  params := Config.params
  cmd := 0
  count := 0
  fail := .none
  op := 0
  hold := false
  asize := 0
  dev := 0
  reg := 0
  arg := 0
  phase := .idle
  idx := 0
  retry := 0
  fr0 := 0
  fr1 := 0
  stage := false
  baudrate := 0
  held := false
  inited := false
  lu := LineUnit.reset
  extClken := false
  extPinmux := false
  divCnt := 0
  sclHalf := false
  buf := []
  trace := []
  snap := ⟨.unknown, false, false, false, false⟩
  rxVal := 0
  ret := 0
  act := false
  agent := []
  tick := 0
  host := []
  hostOut := []
  luPort := none

end Sys2Proof.Machine
end

