-- ==== Sys2Proof/Machine/Ops.lean ====
section
/-! DEFINITION. The named operations the meanings are built from: BUF, TRACE, the guards of the line unit, recording a
failure (`raise`, the one thing this hardware does on an exception) and the end of a command. -/

namespace Sys2Proof.Machine

/-- What a meaning answers. -/
abbrev Result := Host.Outcome State Fault Refusal

/-- Go on from a next state; a fault or a refusal stays. -/
def andThen (r : Result) (k : State → Result) : Result :=
  match r with
  | .next s => k s
  | .fault f => .fault f
  | .refused e => .refused e

/-! ### BUF (10_state R29) -/

/-- The canonical form of a memory: strictly rising indices. An index that is not listed reads as a free value, so no
entry can equal what an unlisted index reads as (log entry 2). -/
abbrev Memory.wf (m : List Host.Cell) : Prop := m.Pairwise (fun a b => a.1 < b.1)

/-- The listed byte at an index. -/
def Memory.get : List Host.Cell → Nat → Option Byte
  | [], _ => none
  | (k, v) :: m, i => if k = i then some v else Memory.get m i

/-- Write a byte, keeping the canonical form. -/
def Memory.put : List Host.Cell → Nat → Byte → List Host.Cell
  | [], i, v => [(i, v)]
  | (k, w) :: m, i, v =>
    if i < k then (i, v) :: (k, w) :: m
    else if i = k then (i, v) :: m
    else (k, w) :: Memory.put m i v

/-- What a listed or unlisted index reads as in the block on instance `inst`: the byte written last, or the power-on
content, a free value. -/
def Memory.byte (inst : Nat) (m : List Host.Cell) (i : Nat) : Byte :=
  (Memory.get m i).getD (Config.bufInit inst i)

/-- `BUF[i]` as the one byte the model reads. -/
def State.bufByte (s : State) (i : Nat) : Byte := Memory.byte s.params.inst s.buf i

/-- `MemRead(i, 1)`, for `0 <= i < BUF_SIZE` (00_scope R8). -/
def readBuf (s : State) (i : Nat) : Except Fault Byte :=
  if i < s.params.bufSize then .ok (s.bufByte i) else .error (.bufIndex i)

/-- The state with another content of BUF. -/
def State.setBuf (s : State) (m : List Host.Cell) : State := { s with buf := m }

/-- `MemWrite(i, 1, v)`, for `0 <= i < BUF_SIZE` (00_scope R8). -/
def writeBuf (s : State) (i : Nat) (v : Byte) : Result :=
  if i < s.params.bufSize then .next (s.setBuf (Memory.put s.buf i v)) else .fault (.bufIndex i)

/-! ### TRACE and the guards of the line unit -/

/-- `emit E` (00_scope R8). -/
def State.emit (s : State) (e : Event) : State := { s with trace := s.trace ++ [e] }

/-- The state with another line unit. -/
def State.setLu (s : State) (lu : LineUnit) : State := { s with lu := lu }

/-- The state with another PHASE. -/
def State.setPhase (s : State) (p : Phase) : State := { s with phase := p }

/-- The state with another IDX. -/
def State.setIdx (s : State) (i : BitVec 17) : State := { s with idx := i }

/-- The state with another snapshot kept (10_state R34). -/
def State.setSnap (s : State) (p : Snapshot) : State := { s with snap := p }

/-- The state at another finer position inside ERRCHK or IDLECHK. -/
def State.setAct (s : State) (b : Bool) : State := { s with act := b }

/-- The state with another RETRY. -/
def State.setRetry (s : State) (n : Nat) : State := { s with retry := n }

/-- The state with another HELD. -/
def State.setHeld (s : State) (b : Bool) : State := { s with held := b }

/-- The state with another STAGE. -/
def State.setStage (s : State) (b : Bool) : State := { s with stage := b }

/-- The state with another RESULT.FAIL. -/
def State.setFail (s : State) (f : Fail) : State := { s with fail := f }

/-- The state with another count for the running phase to return. -/
def State.setRet (s : State) (k : BitVec 17) : State := { s with ret := k }

/-- The state with another byte returned by RX. -/
def State.setRxVal (s : State) (v : Byte) : State := { s with rxVal := v }

/-- The state with another queue of host accesses. -/
def State.setHost (s : State) (h : List HostAct) : State := { s with host := h }

/-- The state with another access on the line unit's port. -/
def State.setPort (s : State) (a : Option LuAccess) : State := { s with luPort := a }

/-- The state with another CMD. -/
def State.setCmd (s : State) (d : BitVec 64) : State := { s with cmd := d }

/-- The state with another script of environment moves. -/
def State.setAgent (s : State) (a : List (List EnvMove)) : State := { s with agent := a }

/-- "A line-unit register access requires EXT_CLKEN = 1" (40_line_unit_ops R94). -/
def whenClocked (s : State) (r : Result) : Result :=
  if s.extClken then r else .refused .clockOff

/-- "ERRCLR, FORCEIDLE, START, ADDR, TX, RX, STOP require LU_CTRL.ENABLE = 1 as well" (40_line_unit_ops R94). -/
def whenEnabled (s : State) (r : Result) : Result :=
  whenClocked s (if s.lu.enable then r else .refused .notEnabled)

/-- "Requires ENABLE = 0" (40_line_unit_ops R83, R84). -/
def whenDisabled (s : State) (r : Result) : Result :=
  whenClocked s (if s.lu.enable then .refused .alreadyEnabled else r)

/-! ### Failures and the end of a command -/

/-- `raise F` (60_exceptions R195): the first failure of a command is kept. It transfers control nowhere. -/
def State.raise (s : State) (f : Fail) : State :=
  s.setFail (if s.fail = .none then f else s.fail)

/-- OP of READ_REGS (30_encoding R61). -/
abbrev opReadRegs : BitVec 4 := 5#4

/-- What follows the end of a phase procedure: the read phase after the write phase of READ_REGS, "always, whatever
fw is" (44_register_access R169), otherwise the end of the command. -/
def afterPhase (s : State) : State :=
  if s.op == opReadRegs && !s.stage then (s.setStage true).setPhase .start
  else s.setPhase .done

/-- A phase that ends by issuing STOP returns `k` (42_write R121, 43_read R141). -/
def endWithStop (s : State) (k : BitVec 17) : State := (s.setRet k).setPhase .stop

/-- A failure in a data loop: recorded, and the loop left towards STOP with the bytes completed so far
(42_write R121, 43_read R141, 60_exceptions R196). -/
def failLoop (s : State) (f : Fail) : State := endWithStop (s.raise f) s.idx

/-- A not-acknowledged address: "STOP at once, the phase returns with 0 bytes" (60_exceptions R190), with any LEN. With
LEN = 0 this is k = LEN beside FAIL = ADDR_NACK, where the last sentence of 42_write R124 and 43_read R144 says that
k = LEN means FAIL = NONE; the model follows the pseudocode of R121 and R141 (log entry 27). -/
def failAddr (s : State) : State := endWithStop (s.raise .addrNack) 0

/-- The end of a command, PHASE = DONE: RESULT.COUNT is written, READ_REGS clears STAGE, and PHASE returns to IDLE
(60_exceptions R197, 44_register_access R169). This is all there is of a return (60_exceptions R199). -/
def finish (s : State) : State :=
  { s with count := s.ret, stage := if s.op = opReadRegs then false else s.stage, phase := .idle }

end Sys2Proof.Machine
end

