-- ==== Sys2Proof/Machine/Agent.lean ====
section
/-! DEFINITION. The environment: the bus agent's moves (40_line_unit_ops R95 to R101), the clock divider
(40_line_unit_ops R109, 60_exceptions R203), and the environment's turn before each step. -/

namespace Sys2Proof.Machine

/-- The precondition of a move (40_line_unit_ops R96 to R101); the bus agent "acts only while LU_CTRL.ENABLE = 1"
(R95). -/
def BusMove.enabled (m : BusMove) (u : LineUnit) : Bool :=
  u.enable && match m with
  | .txDone _ => decide (u.pend = .addrw) || decide (u.pend = .txb)
  | .addrRead _ => decide (u.pend = .addrr)
  | .rxByte _ => decide (u.pend = .rxb)
  | .idleForced => u.idleReq
  | .busError => true
  | .busState _ => true

/-- RXNACK as the answer sets it: `(k = NACK) ? 1 : 0`. -/
def Ack.isNack : Ack → Bool
  | .ack => false
  | .nack => true

/-- The effect of a move whose precondition holds (40_line_unit_ops R96 to R101). -/
def BusMove.effect (m : BusMove) (u : LineUnit) : LineUnit :=
  match m with
  | .txDone k => { u with txDone := true, rxNack := Ack.isNack k, pend := .none }
  | .addrRead .nack => { u with txDone := true, rxNack := true, pend := .none }
  | .addrRead .ack => { u with rxNack := false, pend := .rxb }
  | .rxByte v => { u with data := v, rxRdy := true, pend := .none }
  | .idleForced => { u with busState := .idle, idleReq := false }
  | .busError => { u with busErr := true }
  | .busState b => { u with busState := b }

/-- A move changes the line unit where it is enabled; where it is not, the bus agent does not take it (log entry 13). -/
def BusMove.apply (m : BusMove) (u : LineUnit) : LineUnit := if m.enabled u then m.effect u else u

/-- One cycle of the system clock: the divider counts down, and at 0 it is "reloaded with LU_BAUD.DIV" and the half
period of SCL ends, so that a half period has DIV + 1 cycles (40_line_unit_ops R109, 60_exceptions R203). It counts
while the clock gate is open (log entry 12). DEDUCED. -/
def divTick (s : State) : State :=
  if s.extClken then
    if s.divCnt = 0 then { s with divCnt := s.lu.div, sclHalf := !s.sclHalf }
    else { s with divCnt := s.divCnt - 1 }
  else s

/-- One move of the environment. -/
def EnvMove.apply (m : EnvMove) (s : State) : State :=
  match m with
  | .bus b => s.setLu (b.apply s.lu)
  | .sysClock => divTick s

/-- Moves in their order. -/
def applyMoves (ms : List EnvMove) (s : State) : State := ms.foldl (fun s m => m.apply s) s

end Sys2Proof.Machine

/-- The moves of the `n`-th environment turn of the block on instance `inst` where the script is empty: which moves
come, and with which answers, "is chosen by the environment" (00_scope R8, `draw`; 40_line_unit_ops R95). A free value
of the instance and the turn, so the agents of two blocks are not related (log entry 3). -/
opaque Sys2Proof.Config.agentSlot (inst n : Nat) : List Sys2Proof.Machine.EnvMove

namespace Sys2Proof.Machine

/-- The moves of the coming turn: the first slot of the script, or a free choice. -/
def State.slot (s : State) : List EnvMove :=
  match s.agent with
  | ms :: _ => ms
  | [] => Config.agentSlot s.params.inst s.tick

/-- Can any move change anything? Not while the line unit is disabled and the clock gate is closed. -/
def State.envAlive (s : State) : Bool := s.lu.enable || s.extClken

/-- The environment's turn: "Between any two sequencer steps it may take zero or more of the moves R96 to R101 whose
preconditions hold" (40_line_unit_ops R95). -/
def envTurn (s : State) : State :=
  { (if s.envAlive then applyMoves s.slot s else s) with agent := s.agent.tail, tick := s.tick + 1 }

end Sys2Proof.Machine
end

