-- ==== Sys2Proof/Machine/BringUp.lean ====
section
/-! DEFINITION. The bring-up operations: CLKEN, PINMUX, SWRST, SETMODE, SETBAUD, ENABLE (40_line_unit_ops R80 to R85). -/

namespace Sys2Proof.Machine

/-- CLKEN (R80): `EXT_CLKEN <- 1; emit CLKEN`. It is done by an external collaborator and accesses no register of
the line unit, so it has no precondition. -/
def execClken (s : State) : Result := .next ({ s with extClken := true }.emit .clken)

/-- PINMUX (R81): `EXT_PINMUX <- 1; emit PINMUX`. No precondition, as CLKEN. -/
def execPinmux (s : State) : Result := .next ({ s with extPinmux := true }.emit .pinmux)

/-- SWRST (R82): the line unit's registers and hidden state and HELD to their reset values. -/
def execSwrst (s : State) : Result :=
  whenClocked s (.next (((s.setLu LineUnit.reset).setHeld false).emit .swrst))

/-- SETMODE (R83): `LU_CTRL.MODE <- 1`. Requires ENABLE = 0. -/
def execSetmode (s : State) : Result :=
  whenDisabled s (.next ((s.setLu { s.lu with mode := true }).emit .mode))

/-- SETBAUD (R84): `LU_BAUD.DIV <- d`. Requires ENABLE = 0. -/
def execSetbaud (d : BitVec Config.divWidth) (s : State) : Result :=
  whenDisabled s (.next ((s.setLu { s.lu with div := d }).emit (.baud d)))

/-- ENABLE (R85): `LU_CTRL.ENABLE <- 1; LU_STATUS.BUSSTATE <- IDLE`. The pattern written has MODE = 1 too
(30_encoding R66), which changes nothing after SETMODE (log entry 9). DEDUCED. -/
def execEnable (s : State) : Result :=
  whenClocked s (.next ((s.setLu { s.lu with enable := true, mode := true, busState := .idle }).emit .enable))

end Sys2Proof.Machine
end

