-- ==== Sys2Proof/Machine/Operands.lean ====
section
/-! DEFINITION. The operand forms: the address byte, the register-address frame, the divisor, the byte stream of a
write phase, and latching a descriptor's fields at launch. -/

namespace Sys2Proof.Machine

/-- `AB(dev, rw) = (dev << 1) OR rw`: bits [7:1] are the device address, bit [0] is 1 for a read (30_encoding R63). -/
def addressByte (dev : BitVec 7) (rw : Bool) : Byte := dev ++ BitVec.ofBool rw

/-- `FRAME(reg, asize)` (30_encoding R64, 44_register_access R160), most significant byte first. It is not defined
for an address size outside 1 and 2, where this answers the empty frame; the commands refuse that (30_encoding R67). -/
def frame (reg : BitVec 16) (asize : BitVec 2) : List Byte :=
  if asize = 2#2 then [reg.extractLsb' 8 8, reg.extractLsb' 0 8]
  else if asize = 1#2 then [reg.extractLsb' 0 8]
  else []

/-- `DIVISOR(baud) = (SYSCLK_HZ div (2 * baud)) - 1` (30_encoding R65), which fits where 41_initialize R112 holds. -/
def divisor (p : Params) (baud : BitVec 32) : BitVec Config.divWidth :=
  BitVec.ofNat Config.divWidth (baudQuotient p baud - 1)

/-- The nominal SCL frequency in Hz, `SYSCLK_HZ / (2 * (DIV + 1))`, rounded down (40_line_unit_ops R109). -/
def sclHz (p : Params) (d : BitVec Config.divWidth) : Nat := p.sysclkHz / (2 * (d.toNat + 1))

/-- LEN = ARG[15:0] of a transfer command (10_state R13). -/
def State.len (s : State) : Nat := (s.arg.extractLsb' 0 16).toNat

/-- Is the running phase a read phase? READ, and READ_REGS with STAGE = 1 (10_state R13, R15). -/
def State.isRead (s : State) : Bool := s.op == 3#4 || (s.op == opReadRegs && s.stage)

/-- Does the stream of the write phase begin with the frame? WRITE_REGS and READ_REGS (44_register_access R165, R169). -/
def State.isFramed (s : State) : Bool := s.op == 4#4 || s.op == opReadRegs

/-- The `hold` argument of the write phase: HOLD, and 1 for the write phase of READ_REGS (44_register_access R169). -/
def State.holds (s : State) : Bool := s.hold || s.op == opReadRegs

/-- How many bytes the frame has: ASIZE where there is one. -/
def State.frameLen (s : State) : Nat := if s.isFramed then s.asize.toNat else 0

/-- The length of the write phase's stream: LEN for WRITE (42_write R120), ASIZE + LEN for WRITE_REGS
(44_register_access R165), ASIZE for READ_REGS (44_register_access R169). -/
def State.streamLen (s : State) : Nat :=
  if s.op = opReadRegs then s.frameLen else s.frameLen + s.len

/-- Stream byte number IDX: "FR0 for j = 0, FR1 for j = 1 when ASIZE = 2, and BUF[j - ASIZE] otherwise"
(44_register_access R165); `MemRead(IDX, 1)` for WRITE (42_write R122). -/
def streamByte (s : State) : Except Fault Byte :=
  if s.idx.toNat < s.frameLen then .ok (if s.idx = 0 then s.fr0 else s.fr1)
  else readBuf s (s.idx.toNat - s.frameLen)

/-- "a <- (IDX = n - 1) ? NACK : ACK" (43_read R141, R143). -/
def rxAck (s : State) : Ack := if s.idx.toNat + 1 = s.len then .nack else .ack

/-- The fields of a descriptor in the operand registers (10_state R13). -/
def latch (s : State) (op : BitVec 4) (hold : Bool) (asize : BitVec 2) (dev : BitVec 7) (reg : BitVec 16)
    (arg : BitVec 32) : State :=
  { s with op := op, hold := hold, asize := asize, dev := dev, reg := reg, arg := arg }

/-- "FR0 <- REG[15:8]; FR1 <- REG[7:0]" with ASIZE = 2; "with ASIZE = 1, FR0 <- REG[7:0] and FR1 is not written"
(44_register_access R161). -/
def writeFrame (s : State) : State :=
  match frame s.reg s.asize with
  | [a, b] => { s with fr0 := a, fr1 := b }
  | [a] => { s with fr0 := a }
  | _ => s

/-- "RESULT.COUNT <- 0; RESULT.FAIL <- NONE" (42_write R120). -/
def clearResult (s : State) : State := { s with count := 0, fail := .none }

/-- Launch a transfer command whose checks passed: the operands latched, RESULT cleared, PHASE at the first phase
(10_state R11, R12, R13). -/
def launch (s : State) (op : BitVec 4) (hold : Bool) (asize : BitVec 2) (dev : BitVec 7) (reg : BitVec 16)
    (len : BitVec 16) (first : Phase) : State :=
  { clearResult (latch s op hold asize dev reg (len.setWidth 32)) with phase := first, act := false }

/-- What every transfer command is launched under: PHASE = IDLE (70 R229), INITED = 1 (70 R225), LEN <= BUF_SIZE
(30_encoding R70). -/
def whenReady (s : State) (len : BitVec 16) (r : Result) : Result :=
  if s.phase ≠ .idle then .refused .busy
  else if !s.inited then .refused .notInitialised
  else if !lenOk s.params len then .refused .lenTooLong
  else r

end Sys2Proof.Machine
end

