-- ==== Sys2Proof/Machine/Commands.lean ====
section
/-! DEFINITION. The five host commands (30_encoding R61). INIT has no wait and runs to its end here. A transfer
command is launched here; the sequencer's steps run its write and read phases, one line-unit operation a step, because
the bus agent may move between any two of them (20_memory R55; log entries 7 and 8). -/

namespace Sys2Proof.Machine

/-- "Legal only when INITED = 0 and rule R112 holds; otherwise refused" (41_initialize R110): no divisor is ever made of
a baud rate that R112 refuses. -/
def whenInitLegal (s : State) (baud : BitVec 32) (r : Result) : Result :=
  if s.inited then .refused .alreadyInitialised
  else if !baudOk s.params baud then .refused .badBaud
  else r

/-- The six operations of INIT in their order, then `INITED <- 1; PHASE <- IDLE` (41_initialize R110, R111). -/
def bringUp (s : State) : Result :=
  andThen (execClken s) fun s =>
  andThen (execPinmux s) fun s =>
  andThen (execSwrst s) fun s =>
  andThen (execSetmode s) fun s =>
  andThen (execSetbaud (divisor s.params s.baudrate) s) fun s =>
  andThen (execEnable s) fun s =>
  .next { s with inited := true, phase := .idle }

/-- INIT (41_initialize R110): legal only when INITED = 0 and R112 holds. RESULT is not written. -/
def execInit (baud : BitVec 32) (s : State) : Result :=
  if s.phase ≠ .idle then .refused .busy
  else whenInitLegal s baud
    (bringUp { latch s 1#4 false 0#2 0#7 0#16 baud with phase := .init, baudrate := baud })

/-- WRITE (42_write R120): RESULT cleared; the write phase begins with RECOVER. -/
def execWrite (dev : BitVec 7) (len : BitVec 16) (hold : Bool) (s : State) : Result :=
  whenReady s len (.next (launch s 2#4 hold 0#2 dev 0#16 len .errchk))

/-- READ (43_read R140): RESULT cleared; the read phase begins with START, "no RECOVER before it" (43_read R141). -/
def execRead (dev : BitVec 7) (len : BitVec 16) (s : State) : Result :=
  whenReady s len (.next (launch s 3#4 false 0#2 dev 0#16 len .start))

/-- WRITE_REGS (44_register_access R165): RESULT cleared, the frame written to FR0 and FR1, one write phase. -/
def execWriteRegs (dev : BitVec 7) (reg : BitVec 16) (asize : BitVec 2) (len : BitVec 16) (hold : Bool) (s : State) :
    Result :=
  if asizeOk asize then
    whenReady s len (.next (writeFrame (launch s 4#4 hold asize dev reg len .errchk)))
  else .refused .badAsize

/-- READ_REGS (44_register_access R169): RESULT cleared, the frame written to FR0 and FR1, `STAGE <- 0`, the write
phase first. -/
def execReadRegs (dev : BitVec 7) (reg : BitVec 16) (asize : BitVec 2) (len : BitVec 16) (s : State) : Result :=
  if asizeOk asize then
    whenReady s len (.next { writeFrame (launch s 5#4 false asize dev reg len .errchk) with stage := false })
  else .refused .badAsize

end Sys2Proof.Machine
end

