-- ==== Sys2Proof/Machine/Flags.lean ====
section
/-! DEFINITION. The registers as the words software or the sequencer reads, the snapshot, and the tests the four waits
make on one snapshot (40_line_unit_ops R103 to R106, 45_recovery R183). -/

namespace Sys2Proof.Machine

/-- The code of BUSSTATE (10_state R23). -/
def BusState.code : BusState → BitVec 2
  | .unknown => 0#2
  | .idle => 1#2
  | .owner => 2#2
  | .busy => 3#2

/-- The code of LU_CMD.CMD (10_state R22). -/
def LuCmd.code : LuCmd → BitVec 2
  | .none => 0#2
  | .start => 1#2
  | .read => 2#2
  | .stop => 3#2

/-- The code of RESULT.FAIL (10_state R12, 60_exceptions R190 to R193). -/
def Fail.code : Fail → BitVec 3
  | .none => 0#3
  | .addrNack => 1#3
  | .dataNack => 2#3
  | .busError => 3#3
  | .pollTimeout => 4#3

/-- The code of PHASE (10_state R14). -/
def Phase.code : Phase → BitVec 4
  | .idle => 0#4
  | .init => 1#4
  | .errchk => 2#4
  | .idlechk => 3#4
  | .idlewait => 4#4
  | .start => 5#4
  | .addr => 6#4
  | .addrwait => 7#4
  | .txbyte => 8#4
  | .txwait => 9#4
  | .rxwait => 10#4
  | .rxbyte => 11#4
  | .stop => 12#4
  | .done => 13#4

/-- RESULT: COUNT in bits [16:0], FAIL in bits [26:24], the others 0 (10_state R12). -/
def State.result (s : State) : BitVec 32 := s.count.setWidth 32 ||| s.fail.code.setWidth 32 <<< 24

/-- LU_CTRL: bit 0 SWRST reads 0, bit 1 ENABLE, bit 2 MODE (10_state R20). -/
def LineUnit.ctrlWord (u : LineUnit) : Byte := 0#5 ++ (BitVec.ofBool u.mode ++ (BitVec.ofBool u.enable ++ 0#1))

/-- LU_CMD: bits [1:0] CMD, bit 2 ACKACT (10_state R22). -/
def LineUnit.cmdWord (u : LineUnit) : Byte := 0#5 ++ (u.ackAct.bit ++ u.cmd.code)

/-- LU_STATUS: bits [1:0] BUSSTATE, bit 2 BUSERR, bit 3 RXNACK (10_state R23). -/
def LineUnit.statusWord (u : LineUnit) : Byte :=
  0#4 ++ (BitVec.ofBool u.rxNack ++ (BitVec.ofBool u.busErr ++ u.busState.code))

/-- LU_FLAGS: bit 0 TXDONE, bit 1 RXRDY (10_state R24). -/
def LineUnit.flagsWord (u : LineUnit) : Byte := 0#6 ++ (BitVec.ofBool u.rxRdy ++ BitVec.ofBool u.txDone)

/-- The snapshot of the line unit at this instant (40_line_unit_ops R86). -/
def LineUnit.snapshot (u : LineUnit) : Snapshot := ⟨u.busState, u.busErr, u.rxNack, u.txDone, u.rxRdy⟩

/-- What the tests of one poll say. -/
inductive Poll where
  /-- The condition was not seen; poll again. -/
  | again
  /-- The byte completed and was acknowledged, or a received byte is available. -/
  | ack
  /-- The byte completed and was not acknowledged. -/
  | nack
  /-- A bus error was seen. -/
  | busErr
  deriving DecidableEq, Repr

/-- "(s.RXNACK = 1) ? NACK : ACK". -/
def Snapshot.answer (p : Snapshot) : Poll := if p.rxNack then .nack else .ack

/-- One poll of WaitAddrW (40_line_unit_ops R103). BUSERR is not tested. -/
def waitAddrW (p : Snapshot) : Poll := if p.txDone then p.answer else .again

/-- One poll of WaitAddrR (40_line_unit_ops R104). BUSERR is not tested. -/
def waitAddrR (p : Snapshot) : Poll := if p.txDone || p.rxRdy then p.answer else .again

/-- One poll of WaitTx but for the counter: BUSERR first, then the completion flag (40_line_unit_ops R105,
60_exceptions R200). -/
def waitTx (p : Snapshot) : Poll := if p.busErr then .busErr else if p.txDone then p.answer else .again

/-- One poll of WaitRx but for the counter; `ack` is AVAIL (40_line_unit_ops R106, 60_exceptions R200). -/
def waitRx (p : Snapshot) : Poll := if p.busErr then .busErr else if p.rxRdy then .ack else .again

end Sys2Proof.Machine
end

