-- ==== Sys2Proof/Machine/Status.lean ====
section
/-! DEFINITION. The status operations: SNAP, ERRCLR, FORCEIDLE (40_line_unit_ops R86 to R88). -/

namespace Sys2Proof.Machine

/-- SNAP (R86): the two registers read at one instant; nothing of the line unit is written and nothing emitted. The
5-tuple goes to the sequencer, which keeps it until it has tested it (10_state R34). -/
def execSnap (s : State) : Result := whenClocked s (.next (s.setSnap s.lu.snapshot))

/-- ERRCLR (R87): `LU_STATUS.BUSERR <- 0`. -/
def execErrclr (s : State) : Result :=
  whenEnabled s (.next ((s.setLu { s.lu with busErr := false }).emit .errclr))

/-- FORCEIDLE (R88): `IDLEREQ <- 1`; BUSSTATE follows when the bus agent takes BA.IdleForced. -/
def execForceidle (s : State) : Result :=
  whenEnabled s (.next ((s.setLu { s.lu with idleReq := true }).emit .forceidle))

end Sys2Proof.Machine
end

