-- ==== Sys2Proof/Machine/Transfer.lean ====
section
/-! DEFINITION. The transfer operations: START, ADDR, TX, RX, STOP (40_line_unit_ops R89 to R93). -/

namespace Sys2Proof.Machine

/-- START of the line unit (R89): the flags cleared, nothing in flight, and the bus owned if it was IDLE or OWNER. -/
def LineUnit.start (u : LineUnit) : LineUnit :=
  { u with
    cmd := .start, txDone := false, rxRdy := false, rxNack := false, pend := .none,
    busState := match u.busState with
      | .idle => .owner
      | .owner => .owner
      | .busy => .busy
      | .unknown => .unknown }

/-- START (R89): a repeated START exactly when the bus was owned; HELD is consumed. 30_encoding R71 says "exactly when the
previous write phase ended without STOP", which differs after a move BA.BusState; the model follows the pseudocode of
R89 (log entry 28). -/
def execStart (s : State) : Result :=
  whenEnabled s
    (.next (((s.setLu s.lu.start).setHeld false).emit (.start (decide (s.lu.busState = BusState.owner)))))

/-- ADDR (R90): the address byte handed to the line driver; `b[0]` tells ADDRW from ADDRR. -/
def execAddr (b : Byte) (s : State) : Result :=
  whenEnabled s
    (.next ((s.setLu { s.lu with
      addr := b, txDone := false, pend := if b.getLsbD 0 then .addrr else .addrw }).emit (.addr b)))

/-- TX (R91): the data byte handed to the line driver. -/
def execTx (b : Byte) (s : State) : Result :=
  whenEnabled s (.next ((s.setLu { s.lu with data := b, txDone := false, pend := .txb }).emit (.tx b)))

/-- RX of the line unit (R92): the acknowledge action set, the byte consumed, and the next byte clocked in on ACK. -/
def LineUnit.rx (u : LineUnit) (a : Ack) : LineUnit :=
  match a with
  | .ack => { u with ackAct := .ack, rxRdy := false, cmd := .read, pend := .rxb }
  | .nack => { u with ackAct := .nack, rxRdy := false, pend := .none }

/-- RX (R92): requires RXRDY = 1; returns LU_DATA. -/
def execRx (a : Ack) (s : State) : Result :=
  whenEnabled s
    (if s.lu.rxRdy then .next (((s.setLu (s.lu.rx a)).setRxVal s.lu.data).emit (.rx s.lu.data a))
     else .refused .rxNotReady)

/-- STOP of the line unit (R93): the completion flags cleared, nothing in flight, an owned bus released. BUSERR and
RXNACK are left as they are. -/
def LineUnit.stop (u : LineUnit) : LineUnit :=
  { u with
    cmd := .stop, txDone := false, rxRdy := false, pend := .none,
    busState := if u.busState = .owner then .idle else u.busState }

/-- STOP (R93). -/
def execStop (s : State) : Result :=
  whenEnabled s (.next (((s.setLu s.lu.stop).setHeld false).emit .stop))

end Sys2Proof.Machine
end

