-- ==== Sys2Proof/Machine/Dispatch.lean ====
section
/-! DEFINITION. One arm for each instruction. -/

namespace Sys2Proof.Machine

/-- What an instruction does. -/
def exec (i : Instr) (s : State) : Host.Outcome State Fault Refusal :=
  match i with
  | .init baud => Sys2Proof.Machine.execInit baud s
  | .write dev len hold => Sys2Proof.Machine.execWrite dev len hold s
  | .read dev len => Sys2Proof.Machine.execRead dev len s
  | .writeRegs dev reg asize len hold => Sys2Proof.Machine.execWriteRegs dev reg asize len hold s
  | .readRegs dev reg asize len => Sys2Proof.Machine.execReadRegs dev reg asize len s
  | .clken => Sys2Proof.Machine.execClken s
  | .pinmux => Sys2Proof.Machine.execPinmux s
  | .swrst => Sys2Proof.Machine.execSwrst s
  | .setmode => Sys2Proof.Machine.execSetmode s
  | .setbaud d => Sys2Proof.Machine.execSetbaud d s
  | .enable => Sys2Proof.Machine.execEnable s
  | .snap => Sys2Proof.Machine.execSnap s
  | .errclr => Sys2Proof.Machine.execErrclr s
  | .forceidle => Sys2Proof.Machine.execForceidle s
  | .start => Sys2Proof.Machine.execStart s
  | .addr b => Sys2Proof.Machine.execAddr b s
  | .tx b => Sys2Proof.Machine.execTx b s
  | .rx a => Sys2Proof.Machine.execRx a s
  | .stop => Sys2Proof.Machine.execStop s

end Sys2Proof.Machine
end

