-- ==== Sys2Proof/Machine/HostPort.lean ====
section
/-! DEFINITION. The host's side: CMD, RESULT and BUF (10_state R11, R12, R29; 20_memory R43, R44, R47), and running an
encoded instruction. -/

namespace Sys2Proof.Machine

/-- "A write of value d stores d, and launches the command d encodes" (10_state R11). -/
def writeCmd (d : BitVec 64) (s : State) : Result :=
  match decodeCmd d with
  | .ok i => exec i (s.setCmd d)
  | .error e => .refused (.illegalDescriptor e)

/-- A line-unit access: the operation it is, on the register interface (30_encoding R66). -/
def accessLu (a : LuAccess) (s : State) : Result :=
  match decodeLu a with
  | .ok i => exec i s
  | .error e => .refused (.illegalAccess e)

/-- Offset of CMD, 64 bits (20_memory R47). -/
abbrev offCmd : Nat := 0x00

/-- Offset of RESULT, 32 bits (20_memory R47). -/
abbrev offResult : Nat := 0x08

/-- A host access (20_memory R44, R46): CMD is one 64-bit access, RESULT one 32-bit access, anything else in the host
register space is refused; a write of RESULT is ignored (10_state R12); a BUF access is one byte. "The host acts only
while PHASE = IDLE" (10_state R10), and an access at another time is refused (70 R229). -/
def hostAccess (a : HostAct) (s : State) : Result :=
  if s.phase ≠ .idle then .refused .busy
  else match a with
  | .writeReg off bytes =>
    if off = offCmd ∧ bytes.length = 8 then writeCmd (cmdOfBytes bytes) s
    else if off = offResult ∧ bytes.length = 4 then .next s
    else .refused .badHostAccess
  | .readReg off n =>
    if off = offCmd ∧ n = 8 then .next { s with hostOut := toBytesLE 8 s.cmd.toNat }
    else if off = offResult ∧ n = 4 then .next { s with hostOut := toBytesLE 4 s.result.toNat }
    else .refused .badHostAccess
  | .writeBuf i v => writeBuf s i v
  | .readBuf i =>
    match readBuf s i with
    | .ok v => .next { s with hostOut := [v] }
    | .error f => .fault f

/-- The access a host write at an absolute address is: HOST_BASE is where the window lies (00_scope R7, 20_memory
R40). -/
def hostWriteAt (p : Params) (a : Nat) (bytes : List Byte) : Option HostAct :=
  if p.hostBase ≤ a then some (.writeReg (a - p.hostBase) bytes) else none

/-- The access a host read of `n` bytes at an absolute address is. -/
def hostReadAt (p : Params) (a n : Nat) : Option HostAct :=
  if p.hostBase ≤ a then some (.readReg (a - p.hostBase) n) else none

/-- Where `step` finds its next instruction: a descriptor waits in the host's queue, a line-unit access on the port
(log entries 4 and 5). -/
def State.place (s : State) (e : Encoded) : State :=
  match e with
  | .cd d => ((s.setPhase .idle).setPort none).setHost (.writeReg offCmd (toBytesLE 8 d.toNat) :: s.host)
  | .lu a => s.setPort (some a)

/-- What the machine does once the environment has had its turn: the access on the port if there is one; at IDLE the
host's next access, or waiting; otherwise the sequencer's next step is for the caller. -/
def fetchStep (s : State) (sequencer : State → Result) : Result :=
  match s.luPort with
  | some a => accessLu a (s.setPort none)
  | none =>
    if s.phase = .idle then
      match s.host with
      | a :: rest => hostAccess a (s.setHost rest)
      | [] => .next s
    else sequencer s

end Sys2Proof.Machine
end

