-- ==== Sys2Proof/Machine/Sequencer.lean ====
section
/-! DEFINITION. The sequencer: one step of the running command, by PHASE (10_state R14). Each step issues at most one
line-unit operation, in the order of the pseudocode of RECOVER (45_recovery R180), WritePhase (42_write R121) and
ReadPhase (43_read R141). -/

namespace Sys2Proof.Machine

/-- Issue one line-unit operation and go on from what it left. -/
def issue (i : Instr) (s : State) (k : State → Result) : Result := andThen (exec i s) k

/-- The data waits load the counter: "RETRY <- RETRY_BUDGET" (40_line_unit_ops R105, R106). -/
def startWait (s : State) (p : Phase) : State := (s.setRetry s.params.retryBudget).setPhase p

/-- The head of the write loop, `while IDX < n`, and what follows it: the next byte; or, all bytes acknowledged, a
held end without STOP (42_write R123); or STOP (42_write R121). -/
def writeLoop (s : State) : State :=
  if s.idx.toNat < s.streamLen then s.setPhase .txbyte
  else if s.holds then afterPhase ((s.setHeld true).setRet s.idx)
  else endWithStop s s.idx

/-- The head of the read loop, `while IDX < n`: the next wait with its counter loaded, or STOP, "always"
(43_read R141). -/
def readLoop (s : State) : State :=
  if s.idx.toNat < s.len then startWait s .rxwait
  else endWithStop s s.idx

/-- ERRCHK's test: "if s.BUSERR = 1: ERRCLR" (45_recovery R180, R181). -/
def testErrchk (s : State) : State :=
  if s.snap.busErr then s.setAct true else s.setPhase .idlechk

/-- IDLECHK's test: "if s.BUSSTATE != IDLE and HELD = 0: FORCEIDLE" (45_recovery R180, R182). -/
def testIdlechk (s : State) : State :=
  if s.snap.busState != .idle && !s.held then s.setAct true else s.setPhase .start

/-- IDLEWAIT's test: the poll of WaitIdle, which has no bound (45_recovery R183). -/
def testIdlewait (s : State) : State :=
  if s.snap.busState = .idle then s.setPhase .start else s

/-- ADDRWAIT's test: the poll of WaitAddrW or WaitAddrR, which have no bound; "raise ADDR_NACK" on NACK, "IDX <- 0" on
ACK (42_write R121, 43_read R141). -/
def testAddrwait (s : State) : State :=
  match if s.isRead then waitAddrR s.snap else waitAddrW s.snap with
  | .ack => if s.isRead then readLoop (s.setIdx 0) else writeLoop (s.setIdx 0)
  | .nack => failAddr s
  | .busErr => s
  | .again => s

/-- "RETRY <- RETRY - 1; if RETRY = 0: return TIMEOUT" (40_line_unit_ops R105, R106). -/
def countPoll (s : State) : State :=
  if s.retry - 1 = 0 then failLoop (s.setRetry (s.retry - 1)) .pollTimeout
  else s.setRetry (s.retry - 1)

/-- TXWAIT's test: the poll of WaitTx and what the write loop does with it (40_line_unit_ops R105, 42_write R121). -/
def testTxwait (s : State) : State :=
  match waitTx s.snap with
  | .ack => writeLoop (s.setIdx (s.idx + 1))
  | .nack => failLoop s .dataNack
  | .busErr => failLoop s .busError
  | .again => countPoll s

/-- RXWAIT's test: the poll of WaitRx and what the read loop does with it (40_line_unit_ops R106, 43_read R141). -/
def testRxwait (s : State) : State :=
  match waitRx s.snap with
  | .ack => s.setPhase .rxbyte
  | .nack => s
  | .busErr => failLoop s .busError
  | .again => countPoll s

/-- "MemWrite(IDX, 1, v); IDX <- IDX + 1" and the head of the read loop (43_read R141). -/
def storeByte (s : State) : Result :=
  andThen (writeBuf s s.idx.toNat s.rxVal) fun s => .next (readLoop (s.setIdx (s.idx + 1)))

/-- One step of the sequencer. At PHASE = INIT, where no run from reset ever is, it runs INIT's operations under INIT's own
checks: the model's choice (log entry 7). -/
def seqStep (s : State) : Result :=
  match s.phase with
  | .idle => .next s
  | .init => whenInitLegal s s.baudrate (bringUp s)
  | .errchk =>
    if s.act then issue .errclr s fun s => .next ((s.setAct false).setPhase .idlechk)
    else issue .snap s fun s => .next (testErrchk s)
  | .idlechk =>
    if s.act then issue .forceidle s fun s => .next ((s.setAct false).setPhase .idlewait)
    else issue .snap s fun s => .next (testIdlechk s)
  | .idlewait => issue .snap s fun s => .next (testIdlewait s)
  | .start => issue .start s fun s => .next (s.setPhase .addr)
  | .addr => issue (.addr (addressByte s.dev s.isRead)) s fun s => .next (s.setPhase .addrwait)
  | .addrwait => issue .snap s fun s => .next (testAddrwait s)
  | .txbyte =>
    match streamByte s with
    | .ok b => issue (.tx b) s fun s => .next (startWait s .txwait)
    | .error f => .fault f
  | .txwait => issue .snap s fun s => .next (testTxwait s)
  | .rxwait => issue .snap s fun s => .next (testRxwait s)
  | .rxbyte => issue (.rx (rxAck s)) s storeByte
  | .stop => issue .stop s fun s => .next (afterPhase s)
  | .done => .next (finish s)

end Sys2Proof.Machine
end

