-- ==== Sys2Proof/Machine/Step.lean ====
section
/-! DEFINITION. One step of the machine, and where an instruction is placed for the next step to run it. -/

namespace Sys2Proof.Machine

/-- One step: the environment's turn, then an access on the line unit's port, the host's next access, or the
sequencer's next step. -/
def step (s : State) : Host.Outcome State Fault Refusal := fetchStep (envTurn s) seqStep

/-- `s` with the instruction whose bits are `w` (numbered as the opcode table numbers them) stored where the next step
finds it: a descriptor as the host's next write of CMD, with PHASE at IDLE where the host can act; a line-unit pattern
as an access on the port (log entries 4 and 5). A word wider than a descriptor is placed nowhere. -/
def State.withFetchWord (s : State) (nbits w : Nat) : State :=
  match tableWord nbits w with
  | .ok e => s.place e
  | .error _ => s

end Sys2Proof.Machine
end

