-- ==== Sys2Proof/Machine/LineDriver.lean ====
section
/-! DEFINITION. The SDA/SCL line driver and the acknowledgment detector (40_line_unit_ops R108, 20_memory R42), as
the levels on the two wires that the events of TRACE make. They are no state and no step reads them: "no other rule
depends on it" (log entry 18). -/

namespace Sys2Proof.Machine

/-- What one side does to the two lines: "the driver either pulls a line low or releases it" (R108). -/
structure Pull where
  sdaLow : Bool
  sclLow : Bool
  deriving DecidableEq, Repr

/-- The levels of the two wires; true is high. -/
structure Wire where
  sda : Bool
  scl : Bool
  deriving DecidableEq, Repr

/-- "Both lines are open-drain with pull-ups": a wire is high exactly when no side pulls it low (R108). -/
def Wire.join (a b : Pull) : Wire := ⟨!(a.sdaLow || b.sdaLow), !(a.sclLow || b.sclLow)⟩

/-- One SCL pulse with SDA held: "SDA changes only while SCL is low" (R108). -/
def pulse (sdaLow : Bool) : List Pull := [⟨sdaLow, true⟩, ⟨sdaLow, false⟩, ⟨sdaLow, true⟩]

/-- The eight bits of a byte, "most significant bit first" (R108, 20_memory R42). -/
def bitsMsb (b : Byte) : List Bool :=
  [b.getLsbD 7, b.getLsbD 6, b.getLsbD 5, b.getLsbD 4, b.getLsbD 3, b.getLsbD 2, b.getLsbD 1, b.getLsbD 0]

/-- Pulses for nine bits; a bit is high where SDA is released. -/
def pulses (bits : List Bool) : List Pull := bits.flatMap fun b => pulse (!b)

/-- The acknowledge bit: "SDA low = ACK, SDA high (released) = NACK" (R108). -/
def Ack.level (k : Ack) : Bool := Ack.isNack k

/-- The line driver's part of an event: START is SDA falling while SCL is high, a repeated START the same "without a
preceding STOP", STOP is SDA rising while SCL is high; the driver sends the bits of a transmitted byte and releases
SDA for the acknowledge bit, and releases SDA for the bits of a received byte and answers (R108). -/
def Event.master : Event → List Pull
  | .start false => [⟨false, false⟩, ⟨true, false⟩, ⟨true, true⟩]
  | .start true => [⟨false, true⟩, ⟨false, false⟩, ⟨true, false⟩, ⟨true, true⟩]
  | .addr b => pulses (bitsMsb b ++ [true])
  | .tx b => pulses (bitsMsb b ++ [true])
  | .rx _ a => pulses ([true, true, true, true, true, true, true, true] ++ [Ack.level a])
  | .stop => [⟨true, true⟩, ⟨true, false⟩, ⟨false, false⟩]
  | .clken => []
  | .pinmux => []
  | .swrst => []
  | .mode => []
  | .baud _ => []
  | .enable => []
  | .errclr => []
  | .forceidle => []

/-- Three samples of released SCL for one bit that the target device drives. -/
def devicePulse (bit : Bool) : List Pull := [⟨!bit, false⟩, ⟨!bit, false⟩, ⟨!bit, false⟩]

/-- The target device's part of an event: the acknowledge bit `k` of a transmitted byte, or the bits of a byte it
sends; "the ninth SCL pulse carries the acknowledge bit, driven by the receiver of the byte" (R108). -/
def Event.device (e : Event) (k : Ack) : List Pull :=
  match e with
  | .addr _ => [true, true, true, true, true, true, true, true, Ack.level k].flatMap devicePulse
  | .tx _ => [true, true, true, true, true, true, true, true, Ack.level k].flatMap devicePulse
  | .rx v _ => (bitsMsb v ++ [true]).flatMap devicePulse
  | .start _ => e.master.map fun _ => ⟨false, false⟩
  | .stop => e.master.map fun _ => ⟨false, false⟩
  | .clken => []
  | .pinmux => []
  | .swrst => []
  | .mode => []
  | .baud _ => []
  | .enable => []
  | .errclr => []
  | .forceidle => []

/-- The wires during an event that the device answers `k`. What they carry for a byte that is broken off is the model's
choice, since R108 does not say (log entry 18): a transmitted byte has its nine pulses and some answer `k` also where
its wait ended by a bus error or a timeout, and a byte clocked in and dropped by STOP has no event and so no pulses.
So is what they carry where R89 leaves everything to the bus agent: a START commanded while BUSSTATE is BUSY or UNKNOWN
is a whole START condition, and an address byte whose wait never ends has nine pulses and some answer. -/
def Event.wave (e : Event) (k : Ack) : List Wire := List.zipWith Wire.join e.master (e.device k)

/-- The wires during a list of events with their answers. -/
def waves (es : List (Event × Ack)) : List Wire := es.flatMap fun x => x.1.wave x.2

/-- The two pins: "connected to the line driver only while EXT_PINMUX = 1" (10_state R28); otherwise the pull-ups hold
both high. -/
def pins (s : State) (es : List (Event × Ack)) : List Wire :=
  if s.extPinmux then waves es else (waves es).map fun _ => ⟨true, true⟩

/-- SDA at each level of SCL high: what a receiver and the acknowledgment detector sample. -/
def samples (ws : List Wire) : List Bool := (ws.filter (·.scl)).map (·.sda)

/-- The acknowledgment detector: "samples SDA during the ninth pulse of a transmitted byte ... that is
RXNACK = sampled SDA" (R108). -/
def detectNack (ws : List Wire) : Option Bool := (samples ws)[8]?

/-- The bus conditions on the wires: SDA falling (a START) or rising (a STOP) while SCL is high (R108). -/
inductive Condition where
  | start
  | stop
  deriving DecidableEq, Repr

/-- The condition between two neighbouring levels. -/
def conditionOf (a b : Wire) : Option Condition :=
  if a.scl && b.scl then
    if a.sda && !b.sda then some .start
    else if !a.sda && b.sda then some .stop
    else none
  else none

/-- The conditions a listener sees, in order. -/
def conditions : List Wire → List Condition
  | [] => []
  | a :: ws =>
    match ws with
    | [] => []
    | b :: _ => (conditionOf a b).toList ++ conditions ws

/-- The condition an event stands for. -/
def Event.condition : Event → Option Condition
  | .start _ => some .start
  | .stop => some .stop
  | .clken => none
  | .pinmux => none
  | .swrst => none
  | .mode => none
  | .baud _ => none
  | .enable => none
  | .errclr => none
  | .forceidle => none
  | .addr _ => none
  | .tx _ => none
  | .rx _ _ => none

end Sys2Proof.Machine
end

