-- ==== Sys2Proof/Machine/MemDev.lean ====
section
/-! DEFINITION. The reference target device MEMDEV of 95_test_vectors Part 3 (D29), and the block with that device on
its bus. It is a fixture that fixes the bus agent's free choices; the block itself does not depend on it. -/

namespace Sys2Proof.Machine

/-- MEMDEV(a, asize, M) with its pointer P and byte counter c. A cell that `mem` does not list holds `fill`. -/
structure MemDev where
  addr : BitVec 7
  asize : Nat
  mem : List Host.Cell
  fill : Byte
  ptr : Nat
  cnt : Nat
  deriving DecidableEq, Repr

/-- The number of cells, `2^(8*asize)`. -/
def MemDev.size (d : MemDev) : Nat := 256 ^ d.asize

/-- `M[i]`. -/
def MemDev.cell (d : MemDev) (i : Nat) : Byte := (Memory.get d.mem i).getD d.fill

/-- "BA.AddrRead: k = ACK exactly when LU_ADDR[7:1] = a", and the same for an address byte with the write bit. -/
def MemDev.answers (d : MemDev) (b : Byte) : Ack := if b.extractLsb' 1 7 = d.addr then .ack else .nack

/-- `P <- (P + 1) mod 2^(8*asize)`. -/
def MemDev.advance (d : MemDev) : MemDev := { d with ptr := (d.ptr + 1) % d.size }

/-- A data byte from the master: an offset byte while `c < asize`, otherwise stored. -/
def MemDev.take (d : MemDev) (b : Byte) : MemDev :=
  if d.cnt < d.asize then
    { d with ptr := (if d.cnt = 0 then b.toNat else d.ptr * 256 + b.toNat) % d.size, cnt := d.cnt + 1 }
  else ({ d with mem := Memory.put d.mem d.ptr b }).advance

/-- The moves the device makes at once (ENV_PROMPT, 40_line_unit_ops R102), and the device after them. -/
def MemDev.serve (d : MemDev) (u : LineUnit) : List EnvMove × MemDev :=
  match u.pend with
  | .none => ([], d)
  | .addrw =>
    match d.answers u.addr with
    | .ack => ([.bus (.txDone .ack)], { d with cnt := 0 })
    | .nack => ([.bus (.txDone .nack)], d)
  | .txb => ([.bus (.txDone .ack)], d.take u.data)
  | .addrr =>
    match d.answers u.addr with
    | .ack => ([.bus (.addrRead .ack), .bus (.rxByte (d.cell d.ptr))], d.advance)
    | .nack => ([.bus (.addrRead .nack)], d)
  | .rxb => ([.bus (.rxByte (d.cell d.ptr))], d.advance)

/-- The forced idle state, observed at once. -/
def idleMoves (u : LineUnit) : List EnvMove := if u.idleReq then [.bus .idleForced] else []

/-- The block with the device on its bus. -/
structure System where
  block : State
  dev : MemDev
  deriving DecidableEq, Repr

/-- One step of the block in which the environment's turn is the device's. -/
def System.step (y : System) : Host.Outcome System Fault Refusal :=
  match Sys2Proof.Machine.step (y.block.setAgent [(y.dev.serve y.block.lu).1 ++ idleMoves y.block.lu]) with
  | .next t => .next ⟨t, (y.dev.serve y.block.lu).2⟩
  | .fault f => .fault f
  | .refused r => .refused r

/-- `n` steps, stopping at a fault or a refusal. -/
def System.run : Nat → System → Host.Outcome System Fault Refusal
  | 0, y => .next y
  | n + 1, y =>
    match y.step with
    | .next t => System.run n t
    | .fault f => .fault f
    | .refused r => .refused r

end Sys2Proof.Machine
end

