-- ==== Sys2Proof/Machine/Platform.lean ====
section
/-! DEFINITION. Several blocks on one platform (20_memory R54, 60_exceptions R205, 70 R230). -/

namespace Sys2Proof.Machine

/-- The blocks of a platform, "each a complete I2CM block with its own copy of all state, identified by INSTANCE"
(60_exceptions R205): the block on instance `k` stands at place `k`. -/
structure Platform where
  blocks : List State
  deriving DecidableEq, Repr

/-- "One block per physical bus" (70 R230): no two blocks have one INSTANCE. -/
def Platform.apart (p : Platform) : Bool := decide ((p.blocks.map (·.params.inst)).Nodup)

/-- "The platform has N_INSTANCES bus instances" (60_exceptions R205), at least one (00_scope R7): as many blocks as
each of them takes N_INSTANCES to be, the block at place `k` bound to instance `k`. -/
def Platform.complete (p : Platform) : Bool :=
  decide (1 ≤ p.blocks.length)
    && decide (p.blocks.map (·.params.inst) = List.range p.blocks.length)
    && p.blocks.all fun s => decide (s.params.nInst = p.blocks.length)

/-- The block on instance `k` right after power-on reset. -/
def Platform.resetBlock (k : Nat) : State := { State.reset with params := Config.paramsOf k }

/-- The platform right after power-on reset: one block for each of the N_INSTANCES bus instances; `State.reset` is one
of them. -/
def Platform.reset : Platform := ⟨(List.range Config.nInstances).map Platform.resetBlock⟩

/-- One step of block `k`; the others are untouched: "They share nothing" (60_exceptions R205). A platform with two
blocks on one instance is refused (70 R230, 93 U4), and one that is not complete. A number that is no block's changes
nothing. -/
def Platform.step (p : Platform) (k : Nat) : Host.Outcome Platform Fault Refusal :=
  if !p.apart then .refused .sharedInstance
  else if !p.complete then .refused .incompletePlatform
  else match p.blocks[k]? with
    | none => .next p
    | some s =>
      match Sys2Proof.Machine.step s with
      | .next t => .next ⟨p.blocks.set k t⟩
      | .fault f => .fault f
      | .refused r => .refused r

/-- Power-on reset of a running block (70 R220): everything the spec gives the machine takes its reset value, and BUF is
unspecified again. The parameters stay, and so do the model's own queues of what the outside does. "Only power-on
reset ends a stall" (70 R233); it does not act on the bus (70 R222). It comes from outside and is no step (log entry
20). -/
def State.powerOn (s : State) : State :=
  { State.reset with params := s.params, agent := s.agent, tick := s.tick, host := s.host }

/-- Power-on reset of block `k`; the others are untouched. -/
def Platform.powerOn (p : Platform) (k : Nat) : Platform := ⟨p.blocks.modify k State.powerOn⟩

end Sys2Proof.Machine
end

