-- ==== Sys2Proof/Safety.lean ====
section
/-! DEFINITION. The terms the claims use: frames, invariants, the named environment assumptions of 40_line_unit_ops
R102, the host's duties, runs. -/

namespace Sys2Proof.Machine

/-! ### What stays unchanged -/

/-- CMD and RESULT are unchanged. -/
def SameHostRegs (s t : State) : Prop := t.cmd = s.cmd ∧ t.count = s.count ∧ t.fail = s.fail

/-- The operand registers (10_state R13) are unchanged. -/
def SameOperands (s t : State) : Prop :=
  t.op = s.op ∧ t.hold = s.hold ∧ t.asize = s.asize ∧ t.dev = s.dev ∧ t.reg = s.reg ∧ t.arg = s.arg

/-- The working registers (10_state R15) and the sequencer's own finer state are unchanged. -/
def SameWork (s t : State) : Prop :=
  t.idx = s.idx ∧ t.retry = s.retry ∧ t.fr0 = s.fr0 ∧ t.fr1 = s.fr1 ∧ t.stage = s.stage ∧ t.baudrate = s.baudrate
    ∧ t.ret = s.ret ∧ t.act = s.act

/-- Every byte of BUF reads as before. -/
def SameBuf (s t : State) : Prop := ∀ i, t.bufByte i = s.bufByte i

/-- The parameters, the divider and the model's input and output queues are unchanged. -/
def SameRest (s t : State) : Prop :=
  t.params = s.params ∧ t.divCnt = s.divCnt ∧ t.sclHalf = s.sclHalf ∧ t.agent = s.agent ∧ t.tick = s.tick
    ∧ t.host = s.host ∧ t.hostOut = s.hostOut ∧ t.luPort = s.luPort

/-- EXT_CLKEN and EXT_PINMUX are unchanged. -/
def SameExt (s t : State) : Prop := t.extClken = s.extClken ∧ t.extPinmux = s.extPinmux

/-! ### Invariants -/

/-- BUF is in canonical form and lists only indices below BUF_SIZE (10_state R29). -/
def BufOk (s : State) : Prop := Memory.wf s.buf ∧ ∀ c ∈ s.buf, c.1 < s.params.bufSize

/-- 10_state R35 (iv): "TXDONE = 1 implies PEND is not ADDRW or TXB; RXRDY = 1 implies PEND is not RXB". -/
def FlagsOk (s : State) : Prop :=
  (s.lu.txDone = true → s.lu.pend ≠ .addrw ∧ s.lu.pend ≠ .txb) ∧ (s.lu.rxRdy = true → s.lu.pend ≠ .rxb)

/-- What keeps `FlagsOk`: nothing is placed on the port, a read address is never in flight beside RXRDY, and at PHASE
= ADDR nothing is in flight. -/
def FlagsInv (s : State) : Prop :=
  FlagsOk s ∧ s.luPort = none ∧ (s.lu.rxRdy = true → s.lu.pend ≠ .addrr)
    ∧ (s.phase = .addr → s.lu.rxRdy = false ∧ s.lu.pend = .none)

/-- The bus state the sequencer relies on in each PHASE while nothing outside interferes (10_state R35 (ii), (iii);
log entry 21). -/
def busAsExpected (s : State) : Prop :=
  match s.phase with
  | .idle => if s.held then s.lu.busState = .owner else s.lu.busState = .idle ∧ s.lu.pend = .none
  | .done => if s.held then s.lu.busState = .owner else s.lu.busState = .idle ∧ s.lu.pend = .none
  | .errchk => s.lu.busState = if s.held then .owner else .idle
  | .idlechk => s.act = false ∧ s.lu.busState = if s.held then .owner else .idle
  | .start => s.lu.busState = if s.held then .owner else .idle
  | .addr => s.held = false ∧ s.lu.busState = .owner
  | .addrwait => s.held = false ∧ s.lu.busState = .owner
  | .txbyte => s.held = false ∧ s.lu.busState = .owner
  | .txwait => s.held = false ∧ s.lu.busState = .owner
  | .rxwait => s.held = false ∧ s.lu.busState = .owner
  | .rxbyte => s.held = false ∧ s.lu.busState = .owner
  | .stop => s.held = false ∧ s.lu.busState = .owner
  | .init => False
  | .idlewait => False

/-- The invariant of a nominal bus: before INIT the block is idle; after it the bus state is the expected one and no
forced idle is outstanding. -/
def NominalInv (s : State) : Prop :=
  s.luPort = none
    ∧ (s.inited = false → s.phase = .idle ∧ s.held = false)
    ∧ (s.inited = true → s.lu.idleReq = false ∧ busAsExpected s)

/-- "The end of a run of a host program is: every command has returned, PHASE = IDLE, HELD = 0" (60_exceptions R197). -/
def State.endOfRun (s : State) : Bool := decide (s.phase = .idle) && s.host.isEmpty && !s.held

/-! ### The environment (40_line_unit_ops R102) -/

/-- Not a bus error and not an outside change of the bus state. -/
def EnvMove.nominal : EnvMove → Bool
  | .bus (.busError) => false
  | .bus (.busState _) => false
  | .bus (.txDone _) => true
  | .bus (.addrRead _) => true
  | .bus (.rxByte _) => true
  | .bus .idleForced => true
  | .sysClock => true

/-- Every answer the move gives is ACK. -/
def EnvMove.acks : EnvMove → Bool
  | .bus (.txDone k) => decide (k = .ack)
  | .bus (.addrRead k) => decide (k = .ack)
  | .bus (.rxByte _) => true
  | .bus .idleForced => true
  | .bus .busError => true
  | .bus (.busState _) => true
  | .sysClock => true

/-- ENV_NOMINAL in the coming turn. -/
def EnvNominal (s : State) : Prop := ∀ m ∈ s.slot, EnvMove.nominal m = true

/-- ENV_ALWAYS_ACK in the coming turn. -/
def EnvAlwaysAck (s : State) : Prop := ∀ m ∈ s.slot, EnvMove.acks m = true

/-- A move among R96 to R99, without its free choice. -/
inductive MoveClass where
  | txDone
  | addrRead
  | rxByte
  | idleForced
  deriving DecidableEq, Repr

/-- The class a move belongs to. -/
def BusMove.moveClass : BusMove → Option MoveClass
  | .txDone _ => some .txDone
  | .addrRead _ => some .addrRead
  | .rxByte _ => some .rxByte
  | .idleForced => some .idleForced
  | .busError => none
  | .busState _ => none

/-- Is some move of the class enabled? -/
def MoveClass.enabled (c : MoveClass) (u : LineUnit) : Bool :=
  match c with
  | .txDone => (BusMove.txDone .ack).enabled u
  | .addrRead => (BusMove.addrRead .ack).enabled u
  | .rxByte => (BusMove.rxByte 0).enabled u
  | .idleForced => BusMove.idleForced.enabled u

/-- ENV_PROMPT in the coming turn: after it no move among R96 to R99 is enabled. -/
def EnvPrompt (s : State) : Prop := ∀ c : MoveClass, c.enabled (envTurn s).lu = false

/-- A move of the class is taken in the coming turn. -/
def Taken (c : MoveClass) (s : State) : Prop :=
  ∃ pre m post, s.slot = pre ++ EnvMove.bus m :: post ∧ m.moveClass = some c ∧ m.enabled (applyMoves pre s).lu = true

/-- An infinite run of the machine. -/
def IsRun (r : Nat → State) : Prop := ∀ n, step (r n) = .next (r (n + 1))

/-- ENV_FAIR: "a move among R96 to R99 that stays enabled is eventually taken". -/
def EnvFair (r : Nat → State) : Prop :=
  ∀ c n, (∀ k, n ≤ k → MoveClass.enabled c (r k).lu = true) → ∃ k, n ≤ k ∧ Taken c (r k)

/-- `n` steps, stopping at a fault or a refusal. -/
def runSteps : Nat → State → Result
  | 0, s => .next s
  | n + 1, s => andThen (step s) (runSteps n)

/-- `n` turns in which the bus agent does nothing: it "is never obliged to move" (40_line_unit_ops R95). -/
def silent (n : Nat) : List (List EnvMove) := List.replicate n []

/-- The moves of an agent that answers at once and always with ACK, and whose `j`-th data byte is `src j`. -/
def promptMoves (src : Nat → Byte) (s : State) : List EnvMove :=
  match s.lu.pend with
  | .none => []
  | .addrw => [.bus (.txDone .ack)]
  | .txb => [.bus (.txDone .ack)]
  | .addrr => [.bus (.addrRead .ack), .bus (.rxByte (src 0))]
  | .rxb => [.bus (.rxByte (src s.idx.toNat))]

/-- `n` steps under that agent. -/
def promptRun (src : Nat → Byte) : Nat → State → Result
  | 0, s => .next s
  | n + 1, s => andThen (step (s.setAgent [promptMoves src s])) (promptRun src n)

/-- The events of a write phase that succeeds and releases the bus (30_encoding R71). -/
def writeEvents (r : Bool) (dev : BitVec 7) (stream : List Byte) : List Event :=
  [.start r, .addr (addressByte dev false)] ++ stream.map .tx ++ [.stop]

/-- The events of a read phase of `n` bytes that succeeds: ACK on bytes 1 to n-1, NACK on byte n (43_read R143). -/
def readEvents (r : Bool) (dev : BitVec 7) (src : Nat → Byte) (n : Nat) : List Event :=
  [.start r, .addr (addressByte dev true)]
    ++ (List.range n).map (fun j => .rx (src j) (if j + 1 = n then .nack else .ack)) ++ [.stop]

/-! ### The host's duties (70 R225 to R229, R237) -/

/-- "The next command to this block must be a transfer command" after one that ends with HELD = 1; INIT first, and
once (70 R225, R226, R228). -/
def hostMayLaunch (s : State) : Instr → Bool
  | .init _ => !s.inited && !s.held
  | .write _ _ _ => s.inited
  | .read _ _ => s.inited
  | .writeRegs _ _ _ _ _ => s.inited
  | .readRegs _ _ _ _ => s.inited
  | .clken => false
  | .pinmux => false
  | .swrst => false
  | .setmode => false
  | .setbaud _ => false
  | .enable => false
  | .snap => false
  | .errclr => false
  | .forceidle => false
  | .start => false
  | .addr _ => false
  | .tx _ => false
  | .rx _ => false
  | .stop => false

end Sys2Proof.Machine
end

