-- ==== Sys2Proof/Certificates/Slice0/Obligations.lean ====
section
/-! DEFINITION. The statements for the provers. Each docstring names the rules of spec/ it formalises. -/

open Sys2Proof Sys2Proof.Machine

/-! ### Encodings -/

/-- For every well-formed instruction, decoding its encoding gives it back, with every operand at every value
(30_encoding R60, R62, R66). `cur` is what LU_CMD holds when the operation is encoded. -/
def Obligations.DecodeEncodeAgree : Prop :=
  ∀ (i : Instr) (cur : Byte), i.wellFormed = true → decode (encode i cur) = .ok i

/-- A descriptor that decodes is the encoding of what it decodes to, and that is well-formed: no bit is dropped
(30_encoding R60, R62). -/
def Obligations.EncodeDecodeDescriptor : Prop :=
  ∀ (d : BitVec 64) (i : Instr) (cur : Byte), decodeCmd d = .ok i → encode i cur = .cd d ∧ i.wellFormed = true

/-- No word is admitted by two rows of the table of 30_encoding R62. -/
def Obligations.DescriptorRowsDisjoint : Prop :=
  ∀ (d : BitVec 64), ∀ r ∈ CdRow.all, ∀ r' ∈ CdRow.all, r.admits d = true → r'.admits d = true → r = r'

/-- The state-free part of the legality of a descriptor: a row's mask and match, and ASIZE in {1, 2} on the two rows
that have it (30_encoding R62); a word with OP 0 or 6 to 15 is refused as such (30_encoding R67). -/
def Obligations.DescriptorLegality : Prop :=
  ∀ d : BitVec 64,
    ((∃ i, decodeCmd d = .ok i) ↔
      ∃ r ∈ CdRow.all, d &&& r.mask = r.bits
        ∧ (r = CdRow.writeRegs ∨ r = CdRow.readRegs → cdAsize d = 1#2 ∨ cdAsize d = 2#2))
    ∧ ((cdOp d).toNat = 0 ∨ 6 ≤ (cdOp d).toNat → decodeCmd d = .error .reservedOp)

/-- Words written out from the spec's encodings decode to the instructions they stand for (95_test_vectors T-CD,
30_encoding R66). -/
def Obligations.SpecWordsDecode : Prop :=
  decodeCmd 0x000186A000000001#64 = .ok (.init 100000)
    ∧ decodeCmd 0x0000000100006812#64 = .ok (.write 0x68 1 true)
    ∧ decodeCmd 0x0000000700006803#64 = .ok (.read 0x68 7)
    ∧ decodeCmd 0x0000000301A35054#64 = .ok (.writeRegs 0x50 0x01A3 2 3 true)
    ∧ decodeCmd 0x0000000301A35045#64 = .ok (.readRegs 0x50 0x01A3 2 3)
    ∧ decodeLu ⟨.luCtrl, .readModifyWrite, 0x06#8⟩ = .ok .enable
    ∧ decodeLu ⟨.luStatus, .write, 0x04#8⟩ = .ok .errclr
    ∧ decodeLu ⟨.luCmd, .readModifyWrite, 0x05#8⟩ = .ok .start
    ∧ decodeLu ⟨.luCmd, .readModifyWrite, 0x03#8⟩ = .ok .stop
    ∧ decodeLu ⟨.luCmd, .writeReadWrite, 0x06#8⟩ = .ok (.rx .nack)
    ∧ decodeLu ⟨.luAddr, .write, 0xA1#8⟩ = .ok (.addr 0xA1)
    ∧ decodeLu ⟨.luData, .write, 0x5A#8⟩ = .ok (.tx 0x5A)

/-- The address byte: `AB(dev, rw) = (dev << 1) OR rw`; bits [7:1] are the device address, bit [0] the direction
(30_encoding R63). -/
def Obligations.AddressByteFields : Prop :=
  ∀ (dev : BitVec 7) (rw : Bool),
    (addressByte dev rw).toNat = 2 * dev.toNat + rw.toNat
      ∧ (addressByte dev rw).extractLsb' 1 7 = dev ∧ (addressByte dev rw).getLsbD 0 = rw

/-- The frame: `FRAME(reg, 2) = [reg[15:8], reg[7:0]]`, `FRAME(reg, 1) = [reg[7:0]]` (30_encoding R64); with two
bytes nothing is lost and with one the high byte is dropped (44_register_access R162). -/
def Obligations.FrameBytes : Prop :=
  ∀ reg : BitVec 16, ∃ a b : Byte,
    frame reg 2#2 = [a, b] ∧ frame reg 1#2 = [b]
      ∧ a = reg.extractLsb' 8 8 ∧ b = reg.extractLsb' 0 8
      ∧ reg.toNat = a.toNat * 256 + b.toNat ∧ b.toNat = reg.toNat % 256

/-- INIT's baud rate is legal exactly when `baud != 0`, `q >= 1` and `q - 1 < 2^DIV_WIDTH` with
`q = SYSCLK_HZ div (2 * baud)` (41_initialize R112), and the divisor is then `q - 1` (30_encoding R65). -/
def Obligations.BaudChecksAndDivisor : Prop :=
  ∀ (p : Params) (baud : BitVec 32),
    (baudOk p baud = true ↔
      baud.toNat ≠ 0 ∧ 1 ≤ p.sysclkHz / (2 * baud.toNat) ∧ p.sysclkHz / (2 * baud.toNat) - 1 < 256)
    ∧ (baudOk p baud = true → (divisor p baud).toNat = p.sysclkHz / (2 * baud.toNat) - 1)

/-- The nominal SCL frequency of 40_line_unit_ops R109 with the divisor that INIT programs is never BELOW the
requested rate, and equal to it when the division is exact. The first half is the model's finding (log entry 22): the
spec's prose says the opposite, and `SclNeverFaster` states that. -/
def Obligations.SclNeverSlower : Prop :=
  ∀ (p : Params) (baud : BitVec 32), baudOk p baud = true →
    baud.toNat ≤ sclHz p (divisor p baud)
      ∧ (p.sysclkHz % (2 * baud.toNat) = 0 → sclHz p (divisor p baud) = baud.toNat)

/-- What the prose of 40_line_unit_ops R109 says of the SCL frequency: "at most the requested baud rate". It is
expected to FAIL: flooring the quotient shortens the half period (log entry 22). -/
def Obligations.SclNeverFaster : Prop :=
  ∀ (p : Params) (baud : BitVec 32), baudOk p baud = true → sclHz p (divisor p baud) ≤ baud.toNat

/-! ### Line-unit operations -/

/-- CLKEN, PINMUX, SWRST, SETMODE, SETBAUD and ENABLE complete with exactly these effects (40_line_unit_ops R80 to
R85) under the clock precondition of R94, and SETMODE and SETBAUD under ENABLE = 0. That ENABLE also writes MODE = 1 is
read from the pattern of 30_encoding R66 (log entry 9), and that the bus state is IDLE at once is the spec's own choice
(log entry 10). -/
def Obligations.BringUpOperationsComplete : Prop :=
  ∀ s : State,
    exec .clken s = .next { s with extClken := true, trace := s.trace ++ [.clken] }
    ∧ exec .pinmux s = .next { s with extPinmux := true, trace := s.trace ++ [.pinmux] }
    ∧ (s.extClken = true →
        exec .swrst s = .next { s with
          lu := { enable := false, mode := false, div := 0, cmd := .none, ackAct := .ack, busState := .unknown,
                  busErr := false, rxNack := false, txDone := false, rxRdy := false, addr := 0, data := 0,
                  pend := .none, idleReq := false },
          held := false, trace := s.trace ++ [.swrst] }
        ∧ exec .enable s = .next { s with
            lu := { s.lu with enable := true, mode := true, busState := .idle }, trace := s.trace ++ [.enable] })
    ∧ (s.extClken = true → s.lu.enable = false →
        exec .setmode s = .next { s with lu := { s.lu with mode := true }, trace := s.trace ++ [.mode] }
        ∧ ∀ d, exec (.setbaud d) s = .next { s with lu := { s.lu with div := d }, trace := s.trace ++ [.baud d] })

/-- SNAP reads the 5-tuple and writes nothing of the line unit (40_line_unit_ops R86); ERRCLR clears BUSERR and
FORCEIDLE raises the request, each with every other field untouched (R87, R88). That the tuple is kept in a field is
the model's (10_state R34, log entry 6). -/
def Obligations.StatusOperationsComplete : Prop :=
  ∀ s : State, s.extClken = true →
    exec .snap s = .next { s with
      snap := ⟨s.lu.busState, s.lu.busErr, s.lu.rxNack, s.lu.txDone, s.lu.rxRdy⟩ }
    ∧ (s.lu.enable = true →
        exec .errclr s = .next { s with lu := { s.lu with busErr := false }, trace := s.trace ++ [.errclr] }
        ∧ exec .forceidle s = .next { s with
            lu := { s.lu with idleReq := true }, trace := s.trace ++ [.forceidle] })

/-- START completes (40_line_unit_ops R89): from IDLE or OWNER the bus is owned, from BUSY or UNKNOWN the state is left
as it is, and the START is a repeated one exactly when the bus was owned. -/
def Obligations.StartCompletes : Prop :=
  ∀ s : State, s.extClken = true → s.lu.enable = true →
    ∃ t, exec .start s = .next t
      ∧ t = { s with
          lu := { s.lu with cmd := .start, txDone := false, rxRdy := false, rxNack := false, pend := .none,
                            busState := t.lu.busState },
          held := false, trace := s.trace ++ [.start (decide (s.lu.busState = BusState.owner))] }
      ∧ (s.lu.busState = .idle ∨ s.lu.busState = .owner → t.lu.busState = .owner)
      ∧ (s.lu.busState = .busy ∨ s.lu.busState = .unknown → t.lu.busState = s.lu.busState)

/-- ADDR and TX complete (40_line_unit_ops R90, R91): the byte is handed over, TXDONE cleared, and PEND says which byte
is in flight, an address by its direction bit. That neither operation checks what was issued before it is the model's
reading of R94 (log entry 25). -/
def Obligations.AddressAndTransmitComplete : Prop :=
  ∀ (s : State) (b : Byte), s.extClken = true → s.lu.enable = true →
    exec (.addr b) s = .next { s with
      lu := { s.lu with addr := b, txDone := false, pend := if b.getLsbD 0 = false then .addrw else .addrr },
      trace := s.trace ++ [.addr b] }
    ∧ exec (.tx b) s = .next { s with
        lu := { s.lu with data := b, txDone := false, pend := .txb }, trace := s.trace ++ [.tx b] }

/-- RX completes (40_line_unit_ops R92): the acknowledge action set, the byte of LU_DATA returned and consumed, and the
next byte clocked in exactly on ACK. That the byte returned is kept in a field is the model's (log entry 6). -/
def Obligations.ReceiveCompletes : Prop :=
  ∀ s : State, s.extClken = true → s.lu.enable = true → s.lu.rxRdy = true →
    exec (.rx .ack) s = .next { s with
      lu := { s.lu with ackAct := .ack, rxRdy := false, cmd := .read, pend := .rxb },
      rxVal := s.lu.data, trace := s.trace ++ [.rx s.lu.data .ack] }
    ∧ exec (.rx .nack) s = .next { s with
        lu := { s.lu with ackAct := .nack, rxRdy := false, pend := .none },
        rxVal := s.lu.data, trace := s.trace ++ [.rx s.lu.data .nack] }

/-- STOP completes (40_line_unit_ops R93): an owned bus is released, any other bus state, BUSERR and RXNACK are left
as they are. That the release is immediate is the spec's own choice (log entry 10). -/
def Obligations.StopCompletes : Prop :=
  ∀ s : State, s.extClken = true → s.lu.enable = true →
    ∃ t, exec .stop s = .next t
      ∧ t = { s with
          lu := { s.lu with cmd := .stop, txDone := false, rxRdy := false, pend := .none, busState := t.lu.busState },
          held := false, trace := s.trace ++ [.stop] }
      ∧ (s.lu.busState = .owner → t.lu.busState = .idle)
      ∧ (s.lu.busState ≠ .owner → t.lu.busState = s.lu.busState)

/-- "An operation issued with its precondition false is refused" (40_line_unit_ops R94; "Requires ENABLE = 0", R83 and
R84; "Requires RXRDY = 1", R92). That the two Requires are preconditions in the sense of R94 is the model's reading (log
entry 15). -/
def Obligations.LineUnitPreconditions : Prop :=
  ∀ s : State,
    (s.extClken = false → ∀ i : Instr, i.isCommand = false → i ≠ .clken → i ≠ .pinmux →
      exec i s = .refused .clockOff)
    ∧ (s.extClken = true → s.lu.enable = false →
        exec .errclr s = .refused .notEnabled ∧ exec .forceidle s = .refused .notEnabled
        ∧ exec .start s = .refused .notEnabled ∧ exec .stop s = .refused .notEnabled
        ∧ (∀ b, exec (.addr b) s = .refused .notEnabled ∧ exec (.tx b) s = .refused .notEnabled)
        ∧ ∀ a, exec (.rx a) s = .refused .notEnabled)
    ∧ (s.extClken = true → s.lu.enable = true →
        exec .setmode s = .refused .alreadyEnabled ∧ (∀ d, exec (.setbaud d) s = .refused .alreadyEnabled)
        ∧ (s.lu.rxRdy = false → ∀ a, exec (.rx a) s = .refused .rxNotReady))

/-- The frame of the fourteen line-unit operations: where one gives a next state, CMD, RESULT, the operand registers,
the working registers, PHASE, INITED, the parameters and every byte of BUF are unchanged; HELD only falls; at most one
event is added to TRACE; EXT_CLKEN changes only by CLKEN and EXT_PINMUX only by PINMUX (40_line_unit_ops R80 to R93,
10_state R17). -/
def Obligations.LineUnitFrame : Prop :=
  ∀ (i : Instr) (s t : State), i.isCommand = false → exec i s = .next t →
    SameHostRegs s t ∧ SameOperands s t ∧ SameWork s t ∧ SameBuf s t ∧ SameRest s t
      ∧ t.phase = s.phase ∧ t.inited = s.inited ∧ (t.held = true → s.held = true)
      ∧ (∃ es : List Event, t.trace = s.trace ++ es ∧ es.length ≤ 1)
      ∧ (i ≠ .clken → t.extClken = s.extClken) ∧ (i ≠ .pinmux → t.extPinmux = s.extPinmux)
      ∧ (i = .snap → t.lu = s.lu ∧ t.trace = s.trace ∧ t.held = s.held)

/-! ### Commands -/

/-- INIT completes from IDLE with INITED = 0 and a legal baud rate, and leaves the state of 41_initialize R113: the six
events in the order of R111, the line unit enabled and idle with the divisor programmed, INITED = 1; RESULT and BUF
unchanged. The six operations are one step (log entry 7) and the bus is idle at once (log entries 9 and 10). -/
def Obligations.InitCompletes : Prop :=
  ∀ (s : State) (baud : BitVec 32), s.phase = .idle → s.inited = false → baudOk s.params baud = true →
    exec (.init baud) s = .next { s with
      op := 1#4, hold := false, asize := 0#2, dev := 0#7, reg := 0#16, arg := baud, baudrate := baud,
      lu := { enable := true, mode := true, div := divisor s.params baud, cmd := .none, ackAct := .ack,
              busState := .idle, busErr := false, rxNack := false, txDone := false, rxRdy := false, addr := 0,
              data := 0, pend := .none, idleReq := false },
      held := false, extClken := true, extPinmux := true, inited := true, phase := .idle,
      trace := s.trace ++ [.clken, .pinmux, .swrst, .mode, .baud (divisor s.params baud), .enable] }

/-- The four transfer commands are launched from IDLE with INITED = 1 and LEN <= BUF_SIZE: the descriptor's fields are
latched (10_state R13), RESULT is cleared, the frame is written where there is one (44_register_access R161), and PHASE
is at the first phase, the error check for a write phase (45_recovery R180) and START for READ (43_read R141). What the
sequencer then does is stated by `WriteCompletesPromptly` and its companions; that `exec` is the launch alone is the
model's division of a command into steps (log entry 8). -/
def Obligations.TransferCommandsLaunch : Prop :=
  ∀ (s : State) (dev : BitVec 7) (reg : BitVec 16) (asize : BitVec 2) (len : BitVec 16) (hold : Bool),
    s.phase = .idle → s.inited = true → len.toNat ≤ s.params.bufSize →
    exec (.write dev len hold) s = .next { s with
      op := 2#4, hold := hold, asize := 0#2, dev := dev, reg := 0#16, arg := len.setWidth 32, count := 0,
      fail := .none, act := false, phase := .errchk }
    ∧ exec (.read dev len) s = .next { s with
        op := 3#4, hold := false, asize := 0#2, dev := dev, reg := 0#16, arg := len.setWidth 32, count := 0,
        fail := .none, act := false, phase := .start }
    ∧ (asize = 1#2 →
        exec (.writeRegs dev reg asize len hold) s = .next { s with
          op := 4#4, hold := hold, asize := asize, dev := dev, reg := reg, arg := len.setWidth 32, count := 0,
          fail := .none, act := false, phase := .errchk, fr0 := reg.extractLsb' 0 8 }
        ∧ exec (.readRegs dev reg asize len) s = .next { s with
            op := 5#4, hold := false, asize := asize, dev := dev, reg := reg, arg := len.setWidth 32, count := 0,
            fail := .none, act := false, phase := .errchk, fr0 := reg.extractLsb' 0 8, stage := false })
    ∧ (asize = 2#2 →
        exec (.writeRegs dev reg asize len hold) s = .next { s with
          op := 4#4, hold := hold, asize := asize, dev := dev, reg := reg, arg := len.setWidth 32, count := 0,
          fail := .none, act := false, phase := .errchk, fr0 := reg.extractLsb' 8 8, fr1 := reg.extractLsb' 0 8 }
        ∧ exec (.readRegs dev reg asize len) s = .next { s with
            op := 5#4, hold := false, asize := asize, dev := dev, reg := reg, arg := len.setWidth 32, count := 0,
            fail := .none, act := false, phase := .errchk, fr0 := reg.extractLsb' 8 8, fr1 := reg.extractLsb' 0 8,
            stage := false })

/-- Where a command is refused: while PHASE is not IDLE (70 R229); a transfer before INIT (70 R225), a second INIT
(70 R226), a baud rate that fails 41_initialize R112, LEN above BUF_SIZE (30_encoding R70), ASIZE outside 1 and 2
(30_encoding R67). -/
def Obligations.CommandsRefused : Prop :=
  ∀ s : State,
    (s.phase ≠ .idle → ∀ i : Instr, i.isCommand = true → i.wellFormed = true → exec i s = .refused .busy)
    ∧ (s.phase = .idle → s.inited = false →
        (∀ i : Instr, i.isCommand = true → i.wellFormed = true → (∀ b, i ≠ .init b) →
          exec i s = .refused .notInitialised)
        ∧ ∀ b, baudOk s.params b = false → exec (.init b) s = .refused .badBaud)
    ∧ (s.phase = .idle → s.inited = true →
        (∀ b, exec (.init b) s = .refused .alreadyInitialised)
        ∧ ∀ dev reg asize len hold, s.params.bufSize < BitVec.toNat (w := 16) len →
            exec (.write dev len hold) s = .refused .lenTooLong ∧ exec (.read dev len) s = .refused .lenTooLong
            ∧ (asizeOk asize = true →
                exec (.writeRegs dev reg asize len hold) s = .refused .lenTooLong
                ∧ exec (.readRegs dev reg asize len) s = .refused .lenTooLong))
    ∧ ∀ dev reg asize len hold, asizeOk asize = false →
        exec (.writeRegs dev reg asize len hold) s = .refused .badAsize
        ∧ exec (.readRegs dev reg asize len) s = .refused .badAsize

/-- The frame of the commands: where one gives a next state, every byte of BUF, CMD, IDX, RETRY, the parameters and the
queues are unchanged; a transfer command's launch changes neither the line unit nor HELD, INITED, TRACE, EXT_CLKEN,
EXT_PINMUX, BAUDRATE; INIT changes neither RESULT nor FR0, FR1, STAGE (41_initialize R110, 42_write R120). -/
def Obligations.CommandFrame : Prop :=
  ∀ (i : Instr) (s t : State), i.isCommand = true → exec i s = .next t →
    SameBuf s t ∧ SameRest s t ∧ t.cmd = s.cmd ∧ t.idx = s.idx ∧ t.retry = s.retry
      ∧ ((∀ b, i ≠ .init b) →
          t.lu = s.lu ∧ t.held = s.held ∧ t.inited = s.inited ∧ t.trace = s.trace ∧ SameExt s t
            ∧ t.baudrate = s.baudrate)
      ∧ ((∃ b, i = .init b) → SameHostRegs s t ∧ t.fr0 = s.fr0 ∧ t.fr1 = s.fr1 ∧ t.stage = s.stage)

/-! ### A step runs the decoded instruction -/

/-- At IDLE, when the host's next access is the 64-bit write of CMD whose bytes decode to `i`, the step stores CMD and
is `exec i` after the environment's turn (10_state R11, 20_memory R43). -/
def Obligations.HostWriteRunsCommand : Prop :=
  ∀ (s : State) (d : BitVec 64) (i : Instr) (rest : List HostAct),
    s.luPort = none → s.phase = .idle → s.host = .writeReg 0x00 (toBytesLE 8 d.toNat) :: rest → decodeCmd d = .ok i →
    step s = exec i (((envTurn s).setHost rest).setCmd d)

/-- An access on the line unit's port that decodes to `i` makes the step `exec i` after the environment's turn, with
the port emptied (30_encoding R66; the port is the model's, log entry 5). -/
def Obligations.PortAccessRunsOperation : Prop :=
  ∀ (s : State) (a : LuAccess) (i : Instr), s.luPort = some a → decodeLu a = .ok i →
    step s = exec i ((envTurn s).setPort none)

/-- In every PHASE but IDLE, INIT and DONE the sequencer's step is the environment's turn and then `exec` of exactly
one line-unit operation, the one 10_state R14 names, followed by the sequencer's own bookkeeping, which touches
neither the line unit nor TRACE. The operand registers stay as the launch left them (10_state R13), and in every PHASE
but RXBYTE so does every byte of BUF (42_write R122: "BUF is never written by a write phase"). -/
def Obligations.SequencerIssuesOperations : Prop :=
  ∀ (s t : State), s.luPort = none → s.phase ≠ .idle → s.phase ≠ .init → s.phase ≠ .done → step s = .next t →
    SameOperands s t ∧ (s.phase ≠ .rxbyte → SameBuf s t)
    ∧ ∃ (i : Instr) (u : State), exec i (envTurn s) = .next u ∧ t.lu = u.lu ∧ t.trace = u.trace
      ∧ (s.phase = .errchk → i = if s.act then .errclr else .snap)
      ∧ (s.phase = .idlechk → i = if s.act then .forceidle else .snap)
      ∧ (s.phase = .idlewait ∨ s.phase = .addrwait ∨ s.phase = .txwait ∨ s.phase = .rxwait → i = .snap)
      ∧ (s.phase = .start → i = .start ∧ t.phase = .addr)
      ∧ (s.phase = .addr → i = .addr (addressByte s.dev s.isRead) ∧ t.phase = .addrwait)
      ∧ (s.phase = .txbyte → ∃ b, streamByte s = .ok b ∧ i = .tx b ∧ t.phase = .txwait
          ∧ t.retry = s.params.retryBudget)
      ∧ (s.phase = .rxbyte → i = .rx (if s.idx.toNat + 1 = s.len then .nack else .ack))
      ∧ (s.phase = .stop → i = .stop)

/-- At IDLE with no access waiting the machine waits: only the environment moves (10_state R14). -/
def Obligations.IdleWaitsForHost : Prop :=
  ∀ s : State, s.luPort = none → s.phase = .idle → s.host = [] → step s = .next (envTurn s)

/-- A word placed by `withFetchWord` is what the next step runs, whatever the state (the model's own interface, log
entry 5). -/
def Obligations.FetchWordRuns : Prop :=
  ∀ (s : State) (nbits w : Nat) (i : Instr), decodeTableWord nbits w = some i →
    ∃ u : State, step (s.withFetchWord nbits w) = exec i u ∧ u.lu = (envTurn (s.withFetchWord nbits w)).lu
      ∧ u.trace = s.trace ∧ u.inited = s.inited ∧ u.params = s.params ∧ u.buf = s.buf ∧ u.luPort = none
      ∧ u.host = s.host

/-! ### The sequencer -/

/-- RECOVER's two checks and its wait (45_recovery R180 to R183): a snapshot with BUSERR leads to ERRCLR, one whose bus
state is not IDLE with HELD = 0 leads to FORCEIDLE, and the wait ends exactly when the state reads IDLE. Each clause is
one sequencer step and completes. The bit that divides the two checks into two steps each is the model's finer position
of 10_state R14 (log entry 6). -/
def Obligations.RecoverChecks : Prop :=
  ∀ s : State, s.extClken = true →
    (s.phase = .errchk → s.act = false →
      seqStep s = .next (if s.lu.busErr = true then { s with snap := s.lu.snapshot, act := true }
        else { s with snap := s.lu.snapshot, phase := .idlechk }))
    ∧ (s.phase = .errchk → s.act = true → s.lu.enable = true →
        seqStep s = .next { s with
          lu := { s.lu with busErr := false }, trace := s.trace ++ [.errclr], act := false, phase := .idlechk })
    ∧ (s.phase = .idlechk → s.act = false →
        seqStep s = .next (if s.lu.busState ≠ .idle ∧ s.held = false then
            { s with snap := s.lu.snapshot, act := true }
          else { s with snap := s.lu.snapshot, phase := .start }))
    ∧ (s.phase = .idlechk → s.act = true → s.lu.enable = true →
        seqStep s = .next { s with
          lu := { s.lu with idleReq := true }, trace := s.trace ++ [.forceidle], act := false, phase := .idlewait })
    ∧ (s.phase = .idlewait →
        seqStep s = .next { s with
          snap := s.lu.snapshot, phase := if s.lu.busState = .idle then .start else .idlewait })

/-- One poll of the address-phase wait (40_line_unit_ops R103, R104): it goes on exactly when the byte is not complete,
BUSERR is not looked at, a not-acknowledge records ADDR_NACK and goes to STOP with 0 bytes (60_exceptions R190), and an
acknowledge starts the data loop at IDX = 0: the first byte, the first WaitRx with its counter loaded, or with an empty
stream the end of the phase with 0 bytes, held or by STOP (42_write R121, R123, 43_read R141). The snapshot kept and the
count returned are fields of the model (log entry 6). -/
def Obligations.AddressWaitPoll : Prop :=
  ∀ s : State, s.phase = .addrwait → s.extClken = true →
    ∃ t, seqStep s = .next t ∧ t.lu = s.lu ∧ t.trace = s.trace ∧ SameBuf s t
      ∧ (s.lu.txDone = false → (s.isRead = false ∨ s.lu.rxRdy = false) →
          t = { s with snap := s.lu.snapshot })
      ∧ (s.lu.txDone = true ∨ (s.isRead = true ∧ s.lu.rxRdy = true) → s.lu.rxNack = true →
          t = { s with
            snap := s.lu.snapshot, fail := if s.fail = .none then .addrNack else s.fail, ret := 0, phase := .stop })
      ∧ (s.lu.txDone = true ∨ (s.isRead = true ∧ s.lu.rxRdy = true) → s.lu.rxNack = false →
          t.idx = 0 ∧ t.fail = s.fail ∧ SameOperands s t
          ∧ (s.isRead = true → 0 < s.len →
              t.phase = .rxwait ∧ t.retry = s.params.retryBudget ∧ t.held = s.held ∧ t.stage = s.stage)
          ∧ (s.isRead = true → s.len = 0 → t.phase = .stop ∧ t.ret = 0 ∧ t.held = s.held ∧ t.stage = s.stage)
          ∧ (s.isRead = false → 0 < s.streamLen → t.phase = .txbyte ∧ t.held = s.held ∧ t.stage = s.stage)
          ∧ (s.isRead = false → s.streamLen = 0 → s.holds = false →
              t.phase = .stop ∧ t.ret = 0 ∧ t.held = s.held ∧ t.stage = s.stage)
          ∧ (s.isRead = false → s.streamLen = 0 → s.holds = true →
              t.held = true ∧ t.ret = 0
              ∧ t.phase = (if s.op = 5#4 ∧ s.stage = false then .start else .done)
              ∧ t.stage = if s.op = 5#4 ∧ s.stage = false then true else s.stage))

/-- One poll of the data wait of a write (40_line_unit_ops R105, 42_write R121): the three tests in the order BUSERR,
completion, counter (60_exceptions R200); the failures of R191 to R193 leave the loop for STOP with the bytes
acknowledged so far. The snapshot kept and the count returned are fields of the model (log entry 6). -/
def Obligations.TransmitWaitPoll : Prop :=
  ∀ s : State, s.phase = .txwait → s.extClken = true →
    (s.lu.busErr = true →
      seqStep s = .next { s with
        snap := s.lu.snapshot, fail := if s.fail = .none then .busError else s.fail, ret := s.idx, phase := .stop })
    ∧ (s.lu.busErr = false → s.lu.txDone = true → s.lu.rxNack = true →
        seqStep s = .next { s with
          snap := s.lu.snapshot, fail := if s.fail = .none then .dataNack else s.fail, ret := s.idx, phase := .stop })
    ∧ (s.lu.busErr = false → s.lu.txDone = true → s.lu.rxNack = false →
        ∃ t, seqStep s = .next t ∧ t.idx = s.idx + 1 ∧ t.lu = s.lu ∧ t.trace = s.trace ∧ t.fail = s.fail
          ∧ ((s.idx + 1).toNat < s.streamLen → t.phase = .txbyte ∧ t.held = s.held)
          ∧ (s.streamLen ≤ (s.idx + 1).toNat → s.holds = false → t.phase = .stop ∧ t.ret = s.idx + 1)
          ∧ (s.streamLen ≤ (s.idx + 1).toNat → s.holds = true → t.held = true ∧ t.ret = s.idx + 1
              ∧ t.phase = (if s.op = 5#4 ∧ s.stage = false then .start else .done)
              ∧ t.stage = if s.op = 5#4 ∧ s.stage = false then true else s.stage))
    ∧ (s.lu.busErr = false → s.lu.txDone = false → s.retry - 1 ≠ 0 →
        seqStep s = .next { s with snap := s.lu.snapshot, retry := s.retry - 1 })
    ∧ (s.lu.busErr = false → s.lu.txDone = false → s.retry - 1 = 0 →
        seqStep s = .next { s with
          snap := s.lu.snapshot, retry := 0, fail := if s.fail = .none then .pollTimeout else s.fail, ret := s.idx,
          phase := .stop })

/-- One poll of the data wait of a read (40_line_unit_ops R106, 43_read R141), in the same order (60_exceptions R200).
The snapshot kept and the count returned are fields of the model (log entry 6). -/
def Obligations.ReceiveWaitPoll : Prop :=
  ∀ s : State, s.phase = .rxwait → s.extClken = true →
    (s.lu.busErr = true →
      seqStep s = .next { s with
        snap := s.lu.snapshot, fail := if s.fail = .none then .busError else s.fail, ret := s.idx, phase := .stop })
    ∧ (s.lu.busErr = false → s.lu.rxRdy = true →
        seqStep s = .next { s with snap := s.lu.snapshot, phase := .rxbyte })
    ∧ (s.lu.busErr = false → s.lu.rxRdy = false → s.retry - 1 ≠ 0 →
        seqStep s = .next { s with snap := s.lu.snapshot, retry := s.retry - 1 })
    ∧ (s.lu.busErr = false → s.lu.rxRdy = false → s.retry - 1 = 0 →
        seqStep s = .next { s with
          snap := s.lu.snapshot, retry := 0, fail := if s.fail = .none then .pollTimeout else s.fail, ret := s.idx,
          phase := .stop })

/-- A received byte is taken with NACK when it is the last and ACK otherwise, stored at BUF[IDX] and nowhere else, and
IDX counts it (43_read R141 to R143); the loop goes on while bytes remain and otherwise goes to STOP. -/
def Obligations.ReceivedByteStored : Prop :=
  ∀ s : State, s.phase = .rxbyte → s.extClken = true → s.lu.enable = true → s.lu.rxRdy = true →
    s.idx.toNat < s.params.bufSize →
    ∃ t, seqStep s = .next t ∧ t.idx = s.idx + 1
      ∧ (∀ j, t.bufByte j = if j = s.idx.toNat then s.lu.data else s.bufByte j)
      ∧ t.trace = s.trace ++ [.rx s.lu.data (if s.idx.toNat + 1 = s.len then .nack else .ack)]
      ∧ t.lu.rxRdy = false ∧ t.fail = s.fail ∧ t.held = s.held ∧ SameOperands s t
      ∧ t.phase = (if (s.idx + 1).toNat < s.len then .rxwait else .stop)
      ∧ ((s.idx + 1).toNat < s.len → t.retry = s.params.retryBudget)
      ∧ (s.len ≤ (s.idx + 1).toNat → t.ret = s.idx + 1)

/-- The order of the stream: WRITE sends BUF[IDX] (42_write R122); WRITE_REGS sends FR0, then FR1 with ASIZE = 2, then
BUF[j - ASIZE] (44_register_access R165); READ_REGS sends the frame alone (44_register_access R169). -/
def Obligations.StreamByteOrder : Prop :=
  ∀ s : State,
    (s.op = 2#4 → s.streamLen = s.len
      ∧ (s.idx.toNat < s.params.bufSize → streamByte s = .ok (s.bufByte s.idx.toNat)))
    ∧ (s.op = 4#4 ∨ s.op = 5#4 → s.asize = 1#2 ∨ s.asize = 2#2 →
        (s.idx.toNat = 0 → streamByte s = .ok s.fr0)
        ∧ (s.asize = 2#2 → s.idx.toNat = 1 → streamByte s = .ok s.fr1)
        ∧ (s.asize.toNat ≤ s.idx.toNat → s.idx.toNat - s.asize.toNat < s.params.bufSize →
            streamByte s = .ok (s.bufByte (s.idx.toNat - s.asize.toNat)))
        ∧ s.streamLen = if s.op = 5#4 then s.asize.toNat else s.asize.toNat + s.len)

/-- The end of a phase and of a command: STOP is issued, then READ_REGS goes from its write phase to its read phase and
every other phase ends the command (44_register_access R169); at DONE the count goes to RESULT.COUNT and PHASE returns
to IDLE with FAIL, HELD, BUF and TRACE kept (60_exceptions R197). -/
def Obligations.PhaseAndCommandEnd : Prop :=
  ∀ s : State,
    (s.phase = .stop → s.extClken = true → s.lu.enable = true →
      ∃ t, seqStep s = .next t ∧ t.trace = s.trace ++ [.stop] ∧ t.held = false ∧ t.fail = s.fail ∧ t.ret = s.ret
        ∧ (s.lu.busState = .owner → t.lu.busState = .idle)
        ∧ (s.op = 5#4 ∧ s.stage = false → t.phase = .start ∧ t.stage = true)
        ∧ (¬(s.op = 5#4 ∧ s.stage = false) → t.phase = .done ∧ t.stage = s.stage))
    ∧ (s.phase = .done →
        seqStep s = .next { s with
          count := s.ret, phase := .idle, stage := if s.op = 5#4 then false else s.stage })

/-! ### Rules of the whole machine -/

/-- "RESULT.FAIL therefore holds the first failure of the command; a later failure of the same command does not
overwrite it" (60_exceptions R195): no step of a running command changes a recorded failure, and no step at IDLE does
but a launch, which clears it. -/
def Obligations.FirstFailureKept : Prop :=
  ∀ s t : State, step s = .next t → s.fail ≠ .none →
    t.fail = s.fail ∨ (s.phase = .idle ∧ t.fail = .none ∧ (t.phase = .errchk ∨ t.phase = .start))

/-- A stale BUSERR "is cleared by the RECOVER of the next write phase and by nothing else" (60_exceptions R199), but
for the module reset of INIT (40_line_unit_ops R82). The premise leaves out an access placed on the model's own port
(log entry 5). -/
def Obligations.BusErrorClearedOnlyByRecovery : Prop :=
  ∀ s t : State, step s = .next t → s.luPort = none → s.lu.busErr = true → t.lu.busErr = false →
    (s.phase = .errchk ∧ s.act = true ∧ t.phase = .idlechk)
      ∨ s.phase = .init ∨ (s.phase = .idle ∧ s.inited = false ∧ t.inited = true)

/-- HELD is set only at the end of a successful write phase that holds the bus, by the poll that saw the last
acknowledge (10_state R17, 42_write R123). -/
def Obligations.HeldSetOnlyByHeldWrite : Prop :=
  ∀ s t : State, step s = .next t → s.held = false → t.held = true →
    s.holds = true ∧ (s.phase = .addrwait ∧ s.isRead = false ∨ s.phase = .txwait)
      ∧ t.lu.txDone = true ∧ t.lu.rxNack = false ∧ t.trace = s.trace ∧ s.streamLen ≤ t.idx.toNat

/-- What no step undoes: INITED (10_state R18: "cleared only by power-on reset"), EXT_CLKEN and EXT_PINMUX (10_state
R28: "Nothing in scope clears them"), and the parameters (10_state R33). -/
def Obligations.NothingClearsInited : Prop :=
  ∀ s t : State, step s = .next t →
    (s.inited = true → t.inited = true) ∧ (s.extClken = true → t.extClken = true)
      ∧ (s.extPinmux = true → t.extPinmux = true) ∧ t.params = s.params

/-- TRACE is only appended to (10_state R27), by one event a step at most, but for the six of INIT (41_initialize R110, R111), which
are one step in this model (log entry 7). -/
def Obligations.TraceOnlyGrows : Prop :=
  ∀ s t : State, step s = .next t →
    ∃ es : List Event, t.trace = s.trace ++ es
      ∧ (es.length ≤ 1 ∨ (es.length = 6 ∧ t.inited = true ∧ t.phase = .idle))

/-- Every step keeps BUF in canonical form, which is the model's representation (log entry 2), with every listed index
below BUF_SIZE (10_state R29). -/
def Obligations.BufFormKept : Prop :=
  ∀ s t : State, BufOk s → step s = .next t → BufOk t

/-- Every step keeps 10_state R35 (iv), with what it rests on: "TXDONE = 1 implies PEND is not ADDRW or TXB; RXRDY = 1
implies PEND is not RXB". -/
def Obligations.CompletionFlagsKept : Prop :=
  ∀ s t : State, FlagsInv s → step s = .next t → FlagsInv t

/-- On a nominal bus (ENV_NOMINAL, 40_line_unit_ops R102) every step keeps: HELD = 1 only while this block owns the
bus, an idle block without a hold reads IDLE with nothing in flight (10_state R35 (ii), (iii), as log entry 21 corrects
it), and no forced idle is ever asked for. -/
def Obligations.NominalBusKept : Prop :=
  ∀ s t : State, NominalInv s → EnvNominal s → step s = .next t → NominalInv t

/-- The invariants above hold at power-on reset; BUF's is about the model's representation (log entry 2). -/
def Obligations.InvariantsHoldAtReset : Prop :=
  BufOk State.reset ∧ FlagsInv State.reset ∧ NominalInv State.reset

/-- The reset values of 10_state R32. BUF is unspecified there: that nothing is listed at reset, so that every byte is
the free value, is the model's representation of it (log entry 2). -/
def Obligations.ResetValues : Prop :=
  State.reset.cmd = 0 ∧ State.reset.result = 0 ∧ State.reset.count = 0 ∧ State.reset.fail = .none
    ∧ State.reset.op = 0 ∧ State.reset.hold = false ∧ State.reset.asize = 0 ∧ State.reset.dev = 0
    ∧ State.reset.reg = 0 ∧ State.reset.arg = 0 ∧ State.reset.idx = 0 ∧ State.reset.retry = 0
    ∧ State.reset.fr0 = 0 ∧ State.reset.fr1 = 0 ∧ State.reset.stage = false ∧ State.reset.baudrate = 0
    ∧ State.reset.phase = .idle ∧ State.reset.held = false ∧ State.reset.inited = false
    ∧ State.reset.lu.ctrlWord = 0 ∧ State.reset.lu.div = 0 ∧ State.reset.lu.cmdWord = 0
    ∧ State.reset.lu.statusWord = 0 ∧ State.reset.lu.busState = .unknown ∧ State.reset.lu.flagsWord = 0
    ∧ State.reset.lu.addr = 0 ∧ State.reset.lu.data = 0 ∧ State.reset.lu.pend = .none
    ∧ State.reset.lu.idleReq = false ∧ State.reset.extClken = false ∧ State.reset.extPinmux = false
    ∧ State.reset.trace = [] ∧ State.reset.buf = []

/-! ### Runs -/

/-- The stall (60_exceptions R194, 70 R233): while the bus agent does nothing, an address wait whose byte is not
complete goes on for ever: after any number of polls PHASE is still ADDRWAIT, with RESULT, BUF and TRACE as they were.
It is no fault and no final state. The bus agent's script is the model's form of its choices (log entry 3). -/
def Obligations.StallNeverEnds : Prop :=
  ∀ (n : Nat) (s : State), s.phase = .addrwait → s.luPort = none → s.extClken = true → s.lu.txDone = false →
    s.lu.rxRdy = false → s.agent = silent n →
    ∃ t, runSteps n s = .next t ∧ t.phase = .addrwait ∧ t.lu = s.lu ∧ t.trace = s.trace ∧ t.buf = s.buf
      ∧ t.count = s.count ∧ t.fail = s.fail

/-- The bounded waits (60_exceptions R193, R203): with `k + 1` polls left and a bus agent that does nothing, the wait
ends after exactly `k + 1` polls with POLL_TIMEOUT recorded if nothing was before, on the way to STOP. -/
def Obligations.BoundedWaitTimesOut : Prop :=
  ∀ (k : Nat) (s : State), s.luPort = none → s.extClken = true → s.lu.busErr = false → s.retry = k + 1 →
    (s.phase = .txwait ∧ s.lu.txDone = false ∨ s.phase = .rxwait ∧ s.lu.rxRdy = false) → s.agent = silent (k + 1) →
    (∃ t, runSteps (k + 1) s = .next t ∧ t.phase = .stop ∧ t.retry = 0 ∧ t.ret = s.idx
      ∧ t.fail = (if s.fail = .none then .pollTimeout else s.fail) ∧ t.lu = s.lu ∧ t.trace = s.trace)
    ∧ ∀ j, j ≤ k → ∃ u, runSteps j s = .next u ∧ u.phase = s.phase ∧ u.retry = k + 1 - j

/-- A not-acknowledged address ends WRITE, READ and WRITE_REGS in STOP with zero bytes transferred: "Write/Read return
having transferred zero payload bytes and leave the bus in STOP" (60_exceptions R190, 42_write R124, 43_read R144).
READ_REGS, which goes on to its read phase (44_register_access R169), is left out. With LEN = 0 this is COUNT = LEN beside
FAIL = ADDR_NACK, against the last sentence of R124 and R144: the model follows the pseudocode of R121 and R141 (log
entry 27). The bus agent's silence is a script of the model (log entry 3). -/
def Obligations.AddressNackEndsInStop : Prop :=
  ∀ s : State, s.phase = .addrwait → s.luPort = none → s.extClken = true → s.lu.enable = true → s.lu.txDone = true →
    s.lu.rxNack = true → s.lu.busState = .owner → s.fail = .none → s.op ≠ 5#4 → s.agent = silent 3 →
    ∃ t, runSteps 3 s = .next t ∧ t.phase = .idle ∧ t.count = 0 ∧ t.fail = .addrNack
      ∧ t.trace = s.trace ++ [.stop] ∧ t.lu.busState = .idle ∧ t.held = false ∧ SameBuf s t

/-- WRITE to the end (42_write R120, R121, R124): launched on an idle bus without error, with a bus agent that answers
at once and always with ACK, it ends after 7 + 2 LEN steps in IDLE with exactly the events START, ADDR, one TX for each
of BUF[0 .. LEN-1] in order, STOP; COUNT = LEN, FAIL = NONE, the bus released, BUF unchanged. -/
def Obligations.WriteCompletesPromptly : Prop :=
  ∀ (src : Nat → Byte) (s : State) (dev : BitVec 7) (len : BitVec 16),
    s.luPort = none → s.phase = .idle → s.inited = true → s.extClken = true → s.lu.enable = true →
    s.lu.busErr = false → s.lu.busState = .idle → s.held = false → len.toNat ≤ s.params.bufSize →
    ∃ t, andThen (exec (.write dev len false) s) (promptRun src (7 + 2 * len.toNat)) = .next t
      ∧ t.phase = .idle
      ∧ t.trace = s.trace ++ writeEvents false dev ((List.range len.toNat).map s.bufByte)
      ∧ t.count.toNat = len.toNat ∧ t.fail = .none ∧ t.held = false ∧ t.lu.busState = .idle ∧ SameBuf s t

/-- WRITE with HOLD to the end (42_write R123): the same without STOP; the bus stays owned and HELD is set. -/
def Obligations.HeldWriteCompletesPromptly : Prop :=
  ∀ (src : Nat → Byte) (s : State) (dev : BitVec 7) (len : BitVec 16),
    s.luPort = none → s.phase = .idle → s.inited = true → s.extClken = true → s.lu.enable = true →
    s.lu.busErr = false → s.lu.busState = .idle → s.held = false → len.toNat ≤ s.params.bufSize →
    ∃ t, andThen (exec (.write dev len true) s) (promptRun src (6 + 2 * len.toNat)) = .next t
      ∧ t.phase = .idle
      ∧ t.trace = s.trace
          ++ ([.start false, .addr (addressByte dev false)] ++ ((List.range len.toNat).map s.bufByte).map .tx)
      ∧ t.count.toNat = len.toNat ∧ t.fail = .none ∧ t.held = true ∧ t.lu.busState = .owner ∧ SameBuf s t

/-- WRITE_REGS to the end (44_register_access R165, R166): one write phase whose stream is the frame followed by the
payload; COUNT = ASIZE + LEN. -/
def Obligations.WriteRegsCompletesPromptly : Prop :=
  ∀ (src : Nat → Byte) (s : State) (dev : BitVec 7) (reg : BitVec 16) (asize : BitVec 2) (len : BitVec 16),
    s.luPort = none → s.phase = .idle → s.inited = true → s.extClken = true → s.lu.enable = true →
    s.lu.busErr = false → s.lu.busState = .idle → s.held = false → len.toNat ≤ s.params.bufSize →
    asize = 1#2 ∨ asize = 2#2 →
    ∃ t, andThen (exec (.writeRegs dev reg asize len false) s) (promptRun src (7 + 2 * (asize.toNat + len.toNat)))
        = .next t
      ∧ t.phase = .idle
      ∧ t.trace = s.trace
          ++ writeEvents false dev (frame reg asize ++ (List.range len.toNat).map s.bufByte)
      ∧ t.count.toNat = asize.toNat + len.toNat ∧ t.fail = .none ∧ t.held = false ∧ t.lu.busState = .idle
      ∧ SameBuf s t

/-- READ to the end (43_read R140 to R144): launched with the bus idle, or held by this block, and no stale error, with
a bus agent that answers at once and delivers `src`, it ends in IDLE with ACK on bytes 1 to LEN-1 and NACK on byte LEN,
STOP, BUF[0 .. LEN-1] the bytes delivered and the rest of BUF unchanged; the START is a repeated one exactly when the
bus was owned (40_line_unit_ops R89, log entry 28). -/
def Obligations.ReadCompletesPromptly : Prop :=
  ∀ (src : Nat → Byte) (s : State) (dev : BitVec 7) (len : BitVec 16),
    s.luPort = none → s.phase = .idle → s.inited = true → s.extClken = true → s.lu.enable = true →
    s.lu.busErr = false → s.lu.busState = .idle ∨ s.lu.busState = .owner → len.toNat ≤ s.params.bufSize →
    ∃ t, andThen (exec (.read dev len) s) (promptRun src (5 + 2 * len.toNat)) = .next t
      ∧ t.phase = .idle
      ∧ t.trace = s.trace ++ readEvents (decide (s.lu.busState = BusState.owner)) dev src len.toNat
      ∧ t.count.toNat = len.toNat ∧ t.fail = .none ∧ t.held = false ∧ t.lu.busState = .idle
      ∧ ∀ j, t.bufByte j = if j < len.toNat then src j else s.bufByte j

/-- READ_REGS to the end (44_register_access R169, R170): the frame written with the bus held, a repeated START, the
payload read, one STOP; COUNT is the payload's. -/
def Obligations.ReadRegsCompletesPromptly : Prop :=
  ∀ (src : Nat → Byte) (s : State) (dev : BitVec 7) (reg : BitVec 16) (asize : BitVec 2) (len : BitVec 16),
    s.luPort = none → s.phase = .idle → s.inited = true → s.extClken = true → s.lu.enable = true →
    s.lu.busErr = false → s.lu.busState = .idle → s.held = false → len.toNat ≤ s.params.bufSize →
    asize = 1#2 ∨ asize = 2#2 →
    ∃ t, andThen (exec (.readRegs dev reg asize len) s)
        (promptRun src (10 + 2 * (asize.toNat + len.toNat))) = .next t
      ∧ t.phase = .idle
      ∧ t.trace = s.trace
          ++ ([.start false, .addr (addressByte dev false)] ++ (frame reg asize).map .tx
              ++ readEvents true dev src len.toNat)
      ∧ t.count.toNat = len.toNat ∧ t.fail = .none ∧ t.held = false ∧ t.lu.busState = .idle
      ∧ ∀ j, t.bufByte j = if j < len.toNat then src j else s.bufByte j

/-- Under ENV_FAIR the address wait of a write ends (40_line_unit_ops R102, R103): in every infinite run in which the
bus agent is fair, a wait whose address byte is in flight is left. -/
def Obligations.FairAddressWaitEnds : Prop :=
  ∀ (r : Nat → State) (n : Nat), IsRun r → EnvFair r → (r n).luPort = none → (r n).phase = .addrwait →
    (r n).isRead = false → (r n).extClken = true → (r n).lu.enable = true → (r n).lu.pend = .addrw →
    ∃ k, n ≤ k ∧ (r k).phase ≠ .addrwait

/-! ### Host, BUF, environment, wires, platform -/

/-- The host registers (10_state R11, R12; 20_memory R43, R44): a 32-bit read of RESULT gives COUNT in bits [16:0] and
FAIL in bits [26:24], least significant byte first; a 64-bit read of CMD gives the last value written; a write of
RESULT is ignored; every other width or place is refused (log entry 23); and any access while PHASE is not IDLE is
refused. -/
def Obligations.HostRegisterAccess : Prop :=
  ∀ s : State,
    (s.phase = .idle →
      hostAccess (.readReg 0x08 4) s
        = .next { s with hostOut := toBytesLE 4 (s.count.toNat + s.fail.code.toNat * 2 ^ 24) }
      ∧ hostAccess (.readReg 0x00 8) s = .next { s with hostOut := toBytesLE 8 s.cmd.toNat }
      ∧ (∀ bytes : List Byte, bytes.length = 4 → hostAccess (.writeReg 0x08 bytes) s = .next s)
      ∧ (∀ off n, ¬(off = 0x00 ∧ n = 8) → ¬(off = 0x08 ∧ n = 4) →
          hostAccess (.readReg off n) s = .refused .badHostAccess
          ∧ ∀ bytes : List Byte, bytes.length = n → hostAccess (.writeReg off bytes) s = .refused .badHostAccess))
    ∧ (s.phase ≠ .idle → ∀ a, hostAccess a s = .refused .busy)

/-- BUF (00_scope R8, 10_state R29): a host write below BUF_SIZE completes, changes that byte and no other; a read
returns the byte; an index at or above BUF_SIZE faults (log entry 14). -/
def Obligations.BufReadAfterWrite : Prop :=
  ∀ (s : State) (i : Nat) (v : Byte), s.phase = .idle →
    (i < s.params.bufSize →
      (∃ t, hostAccess (.writeBuf i v) s = .next t ∧ (∀ j, t.bufByte j = if j = i then v else s.bufByte j)
        ∧ t.params = s.params ∧ t.trace = s.trace ∧ t.lu = s.lu)
      ∧ hostAccess (.readBuf i) s = .next { s with hostOut := [s.bufByte i] })
    ∧ (s.params.bufSize ≤ i →
        hostAccess (.writeBuf i v) s = .fault (.bufIndex i) ∧ hostAccess (.readBuf i) s = .fault (.bufIndex i))

/-- The bus agent's six moves (40_line_unit_ops R96 to R101): what each does where its precondition holds, that a move
whose precondition fails is skipped (the model's choice, log entry 13), and that none is enabled while ENABLE = 0
(R95). -/
def Obligations.BusAgentMoves : Prop :=
  ∀ u : LineUnit,
    (u.enable = false → ∀ m : BusMove, m.apply u = u)
    ∧ (u.enable = true →
        (∀ k, (BusMove.txDone k).apply u =
          if u.pend = .addrw ∨ u.pend = .txb then { u with txDone := true, rxNack := decide (k = .nack), pend := .none }
          else u)
        ∧ (BusMove.addrRead .nack).apply u
            = (if u.pend = .addrr then { u with txDone := true, rxNack := true, pend := .none } else u)
        ∧ (BusMove.addrRead .ack).apply u = (if u.pend = .addrr then { u with rxNack := false, pend := .rxb } else u)
        ∧ (∀ v, (BusMove.rxByte v).apply u =
            if u.pend = .rxb then { u with data := v, rxRdy := true, pend := .none } else u)
        ∧ BusMove.idleForced.apply u = (if u.idleReq = true then { u with busState := .idle, idleReq := false } else u)
        ∧ BusMove.busError.apply u = { u with busErr := true }
        ∧ ∀ b, (BusMove.busState b).apply u = { u with busState := b })

/-- The clock divider (40_line_unit_ops R109, 60_exceptions R203): from its reload value it takes exactly DIV + 1
system-clock cycles to end one half period of SCL, and changes nothing else. That it counts while the clock gate is
open is the model's reading (log entry 12). -/
def Obligations.DividerHalfPeriod : Prop :=
  ∀ s : State, s.extClken = true → s.divCnt = s.lu.div →
    applyMoves (List.replicate (s.lu.div.toNat + 1) .sysClock) s = { s with sclHalf := !s.sclHalf }
      ∧ ∀ j, j ≤ s.lu.div.toNat → (applyMoves (List.replicate j .sysClock) s).sclHalf = s.sclHalf

/-- On the wires a listener sees a START or STOP condition exactly where the block commanded one (40_line_unit_ops
R108): the bytes of any list of events, answered in any way, make no condition of their own. The waveforms are general
knowledge in the spec (93 G2; log entry 18). -/
def Obligations.WireConditions : Prop :=
  ∀ es : List (Event × Ack), conditions (waves es) = es.filterMap fun x => x.1.condition

/-- The acknowledgment detector and the bit order (40_line_unit_ops R108, 20_memory R42): during a transmitted byte
nine levels are sampled, the byte's bits most significant first and then the answer, which is RXNACK; during a received
byte the device's bits and then the master's answer. -/
def Obligations.AcknowledgeDetector : Prop :=
  ∀ (b : Byte) (k a : Ack),
    samples (Event.wave (.tx b) k) = bitsMsb b ++ [decide (k = .nack)]
      ∧ samples (Event.wave (.addr b) k) = bitsMsb b ++ [decide (k = .nack)]
      ∧ samples (Event.wave (.rx b a) k) = bitsMsb b ++ [decide (a = .nack)]
      ∧ detectNack (Event.wave (.tx b) k) = some (decide (k = .nack))

/-- "The platform has N_INSTANCES bus instances" (60_exceptions R205): after power-on reset it has one block for each,
bound to it, in its reset state, and a step or a power-on reset of a block keeps that. A block of a complete platform
steps exactly as it does alone, and every other block is as before (20_memory R54). Two blocks bound to one instance
are refused (70 R230), and so are blocks that are not one for each instance (log entry 20). -/
def Obligations.BlocksIndependent : Prop :=
  ∀ (p q : Platform) (k j : Nat),
    (Platform.step p k = .next q → j ≠ k → q.blocks[j]? = p.blocks[j]?)
      ∧ (p.apart = false → Platform.step p k = .refused .sharedInstance)
      ∧ (p.apart = true → p.complete = false → Platform.step p k = .refused .incompletePlatform)
      ∧ (p.complete = true →
          p.apart = true
          ∧ (∀ s, p.blocks[k]? = some s → s.params.inst = k ∧ s.params.nInst = p.blocks.length)
          ∧ (∀ s t, p.blocks[k]? = some s → step s = .next t → Platform.step p k = .next ⟨p.blocks.set k t⟩)
          ∧ (Platform.step p k = .next q → q.complete = true ∧ q.blocks.length = p.blocks.length)
          ∧ (p.powerOn k).complete = true)
      ∧ (j ≠ k → (p.powerOn k).blocks[j]? = p.blocks[j]?)
      ∧ Platform.reset.complete = true ∧ Platform.reset.blocks.length = Config.nInstances
      ∧ (k < Config.nInstances →
          Platform.reset.blocks[k]? = some { State.reset with params := Config.paramsOf k })
      ∧ State.reset ∈ Platform.reset.blocks
end

