-- ==== Sys2Proof/Laws/State.lean ====
section
/-! SUPPORT. One lemma for each field and named update of the state. -/

namespace Sys2Proof.Machine

@[simp] theorem emit_params (s : State) (e : Event) : (s.emit e).params = s.params := rfl
@[simp] theorem emit_cmd (s : State) (e : Event) : (s.emit e).cmd = s.cmd := rfl
@[simp] theorem emit_count (s : State) (e : Event) : (s.emit e).count = s.count := rfl
@[simp] theorem emit_fail (s : State) (e : Event) : (s.emit e).fail = s.fail := rfl
@[simp] theorem emit_op (s : State) (e : Event) : (s.emit e).op = s.op := rfl
@[simp] theorem emit_hold (s : State) (e : Event) : (s.emit e).hold = s.hold := rfl
@[simp] theorem emit_asize (s : State) (e : Event) : (s.emit e).asize = s.asize := rfl
@[simp] theorem emit_dev (s : State) (e : Event) : (s.emit e).dev = s.dev := rfl
@[simp] theorem emit_reg (s : State) (e : Event) : (s.emit e).reg = s.reg := rfl
@[simp] theorem emit_arg (s : State) (e : Event) : (s.emit e).arg = s.arg := rfl
@[simp] theorem emit_phase (s : State) (e : Event) : (s.emit e).phase = s.phase := rfl
@[simp] theorem emit_idx (s : State) (e : Event) : (s.emit e).idx = s.idx := rfl
@[simp] theorem emit_retry (s : State) (e : Event) : (s.emit e).retry = s.retry := rfl
@[simp] theorem emit_fr0 (s : State) (e : Event) : (s.emit e).fr0 = s.fr0 := rfl
@[simp] theorem emit_fr1 (s : State) (e : Event) : (s.emit e).fr1 = s.fr1 := rfl
@[simp] theorem emit_stage (s : State) (e : Event) : (s.emit e).stage = s.stage := rfl
@[simp] theorem emit_baudrate (s : State) (e : Event) : (s.emit e).baudrate = s.baudrate := rfl
@[simp] theorem emit_held (s : State) (e : Event) : (s.emit e).held = s.held := rfl
@[simp] theorem emit_inited (s : State) (e : Event) : (s.emit e).inited = s.inited := rfl
@[simp] theorem emit_lu (s : State) (e : Event) : (s.emit e).lu = s.lu := rfl
@[simp] theorem emit_extClken (s : State) (e : Event) : (s.emit e).extClken = s.extClken := rfl
@[simp] theorem emit_extPinmux (s : State) (e : Event) : (s.emit e).extPinmux = s.extPinmux := rfl
@[simp] theorem emit_divCnt (s : State) (e : Event) : (s.emit e).divCnt = s.divCnt := rfl
@[simp] theorem emit_sclHalf (s : State) (e : Event) : (s.emit e).sclHalf = s.sclHalf := rfl
@[simp] theorem emit_buf (s : State) (e : Event) : (s.emit e).buf = s.buf := rfl
@[simp] theorem emit_trace (s : State) (e : Event) : (s.emit e).trace = s.trace ++ [e] := rfl
@[simp] theorem emit_snap (s : State) (e : Event) : (s.emit e).snap = s.snap := rfl
@[simp] theorem emit_rxVal (s : State) (e : Event) : (s.emit e).rxVal = s.rxVal := rfl
@[simp] theorem emit_ret (s : State) (e : Event) : (s.emit e).ret = s.ret := rfl
@[simp] theorem emit_act (s : State) (e : Event) : (s.emit e).act = s.act := rfl
@[simp] theorem emit_agent (s : State) (e : Event) : (s.emit e).agent = s.agent := rfl
@[simp] theorem emit_tick (s : State) (e : Event) : (s.emit e).tick = s.tick := rfl
@[simp] theorem emit_host (s : State) (e : Event) : (s.emit e).host = s.host := rfl
@[simp] theorem emit_hostOut (s : State) (e : Event) : (s.emit e).hostOut = s.hostOut := rfl
@[simp] theorem emit_luPort (s : State) (e : Event) : (s.emit e).luPort = s.luPort := rfl

@[simp] theorem setLu_params (s : State) (u : LineUnit) : (s.setLu u).params = s.params := rfl
@[simp] theorem setLu_cmd (s : State) (u : LineUnit) : (s.setLu u).cmd = s.cmd := rfl
@[simp] theorem setLu_count (s : State) (u : LineUnit) : (s.setLu u).count = s.count := rfl
@[simp] theorem setLu_fail (s : State) (u : LineUnit) : (s.setLu u).fail = s.fail := rfl
@[simp] theorem setLu_op (s : State) (u : LineUnit) : (s.setLu u).op = s.op := rfl
@[simp] theorem setLu_hold (s : State) (u : LineUnit) : (s.setLu u).hold = s.hold := rfl
@[simp] theorem setLu_asize (s : State) (u : LineUnit) : (s.setLu u).asize = s.asize := rfl
@[simp] theorem setLu_dev (s : State) (u : LineUnit) : (s.setLu u).dev = s.dev := rfl
@[simp] theorem setLu_reg (s : State) (u : LineUnit) : (s.setLu u).reg = s.reg := rfl
@[simp] theorem setLu_arg (s : State) (u : LineUnit) : (s.setLu u).arg = s.arg := rfl
@[simp] theorem setLu_phase (s : State) (u : LineUnit) : (s.setLu u).phase = s.phase := rfl
@[simp] theorem setLu_idx (s : State) (u : LineUnit) : (s.setLu u).idx = s.idx := rfl
@[simp] theorem setLu_retry (s : State) (u : LineUnit) : (s.setLu u).retry = s.retry := rfl
@[simp] theorem setLu_fr0 (s : State) (u : LineUnit) : (s.setLu u).fr0 = s.fr0 := rfl
@[simp] theorem setLu_fr1 (s : State) (u : LineUnit) : (s.setLu u).fr1 = s.fr1 := rfl
@[simp] theorem setLu_stage (s : State) (u : LineUnit) : (s.setLu u).stage = s.stage := rfl
@[simp] theorem setLu_baudrate (s : State) (u : LineUnit) : (s.setLu u).baudrate = s.baudrate := rfl
@[simp] theorem setLu_held (s : State) (u : LineUnit) : (s.setLu u).held = s.held := rfl
@[simp] theorem setLu_inited (s : State) (u : LineUnit) : (s.setLu u).inited = s.inited := rfl
@[simp] theorem setLu_lu (s : State) (u : LineUnit) : (s.setLu u).lu = u := rfl
@[simp] theorem setLu_extClken (s : State) (u : LineUnit) : (s.setLu u).extClken = s.extClken := rfl
@[simp] theorem setLu_extPinmux (s : State) (u : LineUnit) : (s.setLu u).extPinmux = s.extPinmux := rfl
@[simp] theorem setLu_divCnt (s : State) (u : LineUnit) : (s.setLu u).divCnt = s.divCnt := rfl
@[simp] theorem setLu_sclHalf (s : State) (u : LineUnit) : (s.setLu u).sclHalf = s.sclHalf := rfl
@[simp] theorem setLu_buf (s : State) (u : LineUnit) : (s.setLu u).buf = s.buf := rfl
@[simp] theorem setLu_trace (s : State) (u : LineUnit) : (s.setLu u).trace = s.trace := rfl
@[simp] theorem setLu_snap (s : State) (u : LineUnit) : (s.setLu u).snap = s.snap := rfl
@[simp] theorem setLu_rxVal (s : State) (u : LineUnit) : (s.setLu u).rxVal = s.rxVal := rfl
@[simp] theorem setLu_ret (s : State) (u : LineUnit) : (s.setLu u).ret = s.ret := rfl
@[simp] theorem setLu_act (s : State) (u : LineUnit) : (s.setLu u).act = s.act := rfl
@[simp] theorem setLu_agent (s : State) (u : LineUnit) : (s.setLu u).agent = s.agent := rfl
@[simp] theorem setLu_tick (s : State) (u : LineUnit) : (s.setLu u).tick = s.tick := rfl
@[simp] theorem setLu_host (s : State) (u : LineUnit) : (s.setLu u).host = s.host := rfl
@[simp] theorem setLu_hostOut (s : State) (u : LineUnit) : (s.setLu u).hostOut = s.hostOut := rfl
@[simp] theorem setLu_luPort (s : State) (u : LineUnit) : (s.setLu u).luPort = s.luPort := rfl

@[simp] theorem setPhase_params (s : State) (p : Phase) : (s.setPhase p).params = s.params := rfl
@[simp] theorem setPhase_cmd (s : State) (p : Phase) : (s.setPhase p).cmd = s.cmd := rfl
@[simp] theorem setPhase_count (s : State) (p : Phase) : (s.setPhase p).count = s.count := rfl
@[simp] theorem setPhase_fail (s : State) (p : Phase) : (s.setPhase p).fail = s.fail := rfl
@[simp] theorem setPhase_op (s : State) (p : Phase) : (s.setPhase p).op = s.op := rfl
@[simp] theorem setPhase_hold (s : State) (p : Phase) : (s.setPhase p).hold = s.hold := rfl
@[simp] theorem setPhase_asize (s : State) (p : Phase) : (s.setPhase p).asize = s.asize := rfl
@[simp] theorem setPhase_dev (s : State) (p : Phase) : (s.setPhase p).dev = s.dev := rfl
@[simp] theorem setPhase_reg (s : State) (p : Phase) : (s.setPhase p).reg = s.reg := rfl
@[simp] theorem setPhase_arg (s : State) (p : Phase) : (s.setPhase p).arg = s.arg := rfl
@[simp] theorem setPhase_phase (s : State) (p : Phase) : (s.setPhase p).phase = p := rfl
@[simp] theorem setPhase_idx (s : State) (p : Phase) : (s.setPhase p).idx = s.idx := rfl
@[simp] theorem setPhase_retry (s : State) (p : Phase) : (s.setPhase p).retry = s.retry := rfl
@[simp] theorem setPhase_fr0 (s : State) (p : Phase) : (s.setPhase p).fr0 = s.fr0 := rfl
@[simp] theorem setPhase_fr1 (s : State) (p : Phase) : (s.setPhase p).fr1 = s.fr1 := rfl
@[simp] theorem setPhase_stage (s : State) (p : Phase) : (s.setPhase p).stage = s.stage := rfl
@[simp] theorem setPhase_baudrate (s : State) (p : Phase) : (s.setPhase p).baudrate = s.baudrate := rfl
@[simp] theorem setPhase_held (s : State) (p : Phase) : (s.setPhase p).held = s.held := rfl
@[simp] theorem setPhase_inited (s : State) (p : Phase) : (s.setPhase p).inited = s.inited := rfl
@[simp] theorem setPhase_lu (s : State) (p : Phase) : (s.setPhase p).lu = s.lu := rfl
@[simp] theorem setPhase_extClken (s : State) (p : Phase) : (s.setPhase p).extClken = s.extClken := rfl
@[simp] theorem setPhase_extPinmux (s : State) (p : Phase) : (s.setPhase p).extPinmux = s.extPinmux := rfl
@[simp] theorem setPhase_divCnt (s : State) (p : Phase) : (s.setPhase p).divCnt = s.divCnt := rfl
@[simp] theorem setPhase_sclHalf (s : State) (p : Phase) : (s.setPhase p).sclHalf = s.sclHalf := rfl
@[simp] theorem setPhase_buf (s : State) (p : Phase) : (s.setPhase p).buf = s.buf := rfl
@[simp] theorem setPhase_trace (s : State) (p : Phase) : (s.setPhase p).trace = s.trace := rfl
@[simp] theorem setPhase_snap (s : State) (p : Phase) : (s.setPhase p).snap = s.snap := rfl
@[simp] theorem setPhase_rxVal (s : State) (p : Phase) : (s.setPhase p).rxVal = s.rxVal := rfl
@[simp] theorem setPhase_ret (s : State) (p : Phase) : (s.setPhase p).ret = s.ret := rfl
@[simp] theorem setPhase_act (s : State) (p : Phase) : (s.setPhase p).act = s.act := rfl
@[simp] theorem setPhase_agent (s : State) (p : Phase) : (s.setPhase p).agent = s.agent := rfl
@[simp] theorem setPhase_tick (s : State) (p : Phase) : (s.setPhase p).tick = s.tick := rfl
@[simp] theorem setPhase_host (s : State) (p : Phase) : (s.setPhase p).host = s.host := rfl
@[simp] theorem setPhase_hostOut (s : State) (p : Phase) : (s.setPhase p).hostOut = s.hostOut := rfl
@[simp] theorem setPhase_luPort (s : State) (p : Phase) : (s.setPhase p).luPort = s.luPort := rfl

@[simp] theorem raise_params (s : State) (f : Fail) : (s.raise f).params = s.params := rfl
@[simp] theorem raise_cmd (s : State) (f : Fail) : (s.raise f).cmd = s.cmd := rfl
@[simp] theorem raise_count (s : State) (f : Fail) : (s.raise f).count = s.count := rfl
@[simp] theorem raise_fail (s : State) (f : Fail) : (s.raise f).fail = if s.fail = .none then f else s.fail := rfl
@[simp] theorem raise_op (s : State) (f : Fail) : (s.raise f).op = s.op := rfl
@[simp] theorem raise_hold (s : State) (f : Fail) : (s.raise f).hold = s.hold := rfl
@[simp] theorem raise_asize (s : State) (f : Fail) : (s.raise f).asize = s.asize := rfl
@[simp] theorem raise_dev (s : State) (f : Fail) : (s.raise f).dev = s.dev := rfl
@[simp] theorem raise_reg (s : State) (f : Fail) : (s.raise f).reg = s.reg := rfl
@[simp] theorem raise_arg (s : State) (f : Fail) : (s.raise f).arg = s.arg := rfl
@[simp] theorem raise_phase (s : State) (f : Fail) : (s.raise f).phase = s.phase := rfl
@[simp] theorem raise_idx (s : State) (f : Fail) : (s.raise f).idx = s.idx := rfl
@[simp] theorem raise_retry (s : State) (f : Fail) : (s.raise f).retry = s.retry := rfl
@[simp] theorem raise_fr0 (s : State) (f : Fail) : (s.raise f).fr0 = s.fr0 := rfl
@[simp] theorem raise_fr1 (s : State) (f : Fail) : (s.raise f).fr1 = s.fr1 := rfl
@[simp] theorem raise_stage (s : State) (f : Fail) : (s.raise f).stage = s.stage := rfl
@[simp] theorem raise_baudrate (s : State) (f : Fail) : (s.raise f).baudrate = s.baudrate := rfl
@[simp] theorem raise_held (s : State) (f : Fail) : (s.raise f).held = s.held := rfl
@[simp] theorem raise_inited (s : State) (f : Fail) : (s.raise f).inited = s.inited := rfl
@[simp] theorem raise_lu (s : State) (f : Fail) : (s.raise f).lu = s.lu := rfl
@[simp] theorem raise_extClken (s : State) (f : Fail) : (s.raise f).extClken = s.extClken := rfl
@[simp] theorem raise_extPinmux (s : State) (f : Fail) : (s.raise f).extPinmux = s.extPinmux := rfl
@[simp] theorem raise_divCnt (s : State) (f : Fail) : (s.raise f).divCnt = s.divCnt := rfl
@[simp] theorem raise_sclHalf (s : State) (f : Fail) : (s.raise f).sclHalf = s.sclHalf := rfl
@[simp] theorem raise_buf (s : State) (f : Fail) : (s.raise f).buf = s.buf := rfl
@[simp] theorem raise_trace (s : State) (f : Fail) : (s.raise f).trace = s.trace := rfl
@[simp] theorem raise_snap (s : State) (f : Fail) : (s.raise f).snap = s.snap := rfl
@[simp] theorem raise_rxVal (s : State) (f : Fail) : (s.raise f).rxVal = s.rxVal := rfl
@[simp] theorem raise_ret (s : State) (f : Fail) : (s.raise f).ret = s.ret := rfl
@[simp] theorem raise_act (s : State) (f : Fail) : (s.raise f).act = s.act := rfl
@[simp] theorem raise_agent (s : State) (f : Fail) : (s.raise f).agent = s.agent := rfl
@[simp] theorem raise_tick (s : State) (f : Fail) : (s.raise f).tick = s.tick := rfl
@[simp] theorem raise_host (s : State) (f : Fail) : (s.raise f).host = s.host := rfl
@[simp] theorem raise_hostOut (s : State) (f : Fail) : (s.raise f).hostOut = s.hostOut := rfl
@[simp] theorem raise_luPort (s : State) (f : Fail) : (s.raise f).luPort = s.luPort := rfl

@[simp] theorem endWithStop_params (s : State) (k : BitVec 17) : (endWithStop s k).params = s.params := rfl
@[simp] theorem endWithStop_cmd (s : State) (k : BitVec 17) : (endWithStop s k).cmd = s.cmd := rfl
@[simp] theorem endWithStop_count (s : State) (k : BitVec 17) : (endWithStop s k).count = s.count := rfl
@[simp] theorem endWithStop_fail (s : State) (k : BitVec 17) : (endWithStop s k).fail = s.fail := rfl
@[simp] theorem endWithStop_op (s : State) (k : BitVec 17) : (endWithStop s k).op = s.op := rfl
@[simp] theorem endWithStop_hold (s : State) (k : BitVec 17) : (endWithStop s k).hold = s.hold := rfl
@[simp] theorem endWithStop_asize (s : State) (k : BitVec 17) : (endWithStop s k).asize = s.asize := rfl
@[simp] theorem endWithStop_dev (s : State) (k : BitVec 17) : (endWithStop s k).dev = s.dev := rfl
@[simp] theorem endWithStop_reg (s : State) (k : BitVec 17) : (endWithStop s k).reg = s.reg := rfl
@[simp] theorem endWithStop_arg (s : State) (k : BitVec 17) : (endWithStop s k).arg = s.arg := rfl
@[simp] theorem endWithStop_phase (s : State) (k : BitVec 17) : (endWithStop s k).phase = .stop := rfl
@[simp] theorem endWithStop_idx (s : State) (k : BitVec 17) : (endWithStop s k).idx = s.idx := rfl
@[simp] theorem endWithStop_retry (s : State) (k : BitVec 17) : (endWithStop s k).retry = s.retry := rfl
@[simp] theorem endWithStop_fr0 (s : State) (k : BitVec 17) : (endWithStop s k).fr0 = s.fr0 := rfl
@[simp] theorem endWithStop_fr1 (s : State) (k : BitVec 17) : (endWithStop s k).fr1 = s.fr1 := rfl
@[simp] theorem endWithStop_stage (s : State) (k : BitVec 17) : (endWithStop s k).stage = s.stage := rfl
@[simp] theorem endWithStop_baudrate (s : State) (k : BitVec 17) : (endWithStop s k).baudrate = s.baudrate := rfl
@[simp] theorem endWithStop_held (s : State) (k : BitVec 17) : (endWithStop s k).held = s.held := rfl
@[simp] theorem endWithStop_inited (s : State) (k : BitVec 17) : (endWithStop s k).inited = s.inited := rfl
@[simp] theorem endWithStop_lu (s : State) (k : BitVec 17) : (endWithStop s k).lu = s.lu := rfl
@[simp] theorem endWithStop_extClken (s : State) (k : BitVec 17) : (endWithStop s k).extClken = s.extClken := rfl
@[simp] theorem endWithStop_extPinmux (s : State) (k : BitVec 17) : (endWithStop s k).extPinmux = s.extPinmux := rfl
@[simp] theorem endWithStop_divCnt (s : State) (k : BitVec 17) : (endWithStop s k).divCnt = s.divCnt := rfl
@[simp] theorem endWithStop_sclHalf (s : State) (k : BitVec 17) : (endWithStop s k).sclHalf = s.sclHalf := rfl
@[simp] theorem endWithStop_buf (s : State) (k : BitVec 17) : (endWithStop s k).buf = s.buf := rfl
@[simp] theorem endWithStop_trace (s : State) (k : BitVec 17) : (endWithStop s k).trace = s.trace := rfl
@[simp] theorem endWithStop_snap (s : State) (k : BitVec 17) : (endWithStop s k).snap = s.snap := rfl
@[simp] theorem endWithStop_rxVal (s : State) (k : BitVec 17) : (endWithStop s k).rxVal = s.rxVal := rfl
@[simp] theorem endWithStop_ret (s : State) (k : BitVec 17) : (endWithStop s k).ret = k := rfl
@[simp] theorem endWithStop_act (s : State) (k : BitVec 17) : (endWithStop s k).act = s.act := rfl
@[simp] theorem endWithStop_agent (s : State) (k : BitVec 17) : (endWithStop s k).agent = s.agent := rfl
@[simp] theorem endWithStop_tick (s : State) (k : BitVec 17) : (endWithStop s k).tick = s.tick := rfl
@[simp] theorem endWithStop_host (s : State) (k : BitVec 17) : (endWithStop s k).host = s.host := rfl
@[simp] theorem endWithStop_hostOut (s : State) (k : BitVec 17) : (endWithStop s k).hostOut = s.hostOut := rfl
@[simp] theorem endWithStop_luPort (s : State) (k : BitVec 17) : (endWithStop s k).luPort = s.luPort := rfl

@[simp] theorem failLoop_params (s : State) (f : Fail) : (failLoop s f).params = s.params := rfl
@[simp] theorem failLoop_cmd (s : State) (f : Fail) : (failLoop s f).cmd = s.cmd := rfl
@[simp] theorem failLoop_count (s : State) (f : Fail) : (failLoop s f).count = s.count := rfl
@[simp] theorem failLoop_fail (s : State) (f : Fail) : (failLoop s f).fail = if s.fail = .none then f else s.fail := rfl
@[simp] theorem failLoop_op (s : State) (f : Fail) : (failLoop s f).op = s.op := rfl
@[simp] theorem failLoop_hold (s : State) (f : Fail) : (failLoop s f).hold = s.hold := rfl
@[simp] theorem failLoop_asize (s : State) (f : Fail) : (failLoop s f).asize = s.asize := rfl
@[simp] theorem failLoop_dev (s : State) (f : Fail) : (failLoop s f).dev = s.dev := rfl
@[simp] theorem failLoop_reg (s : State) (f : Fail) : (failLoop s f).reg = s.reg := rfl
@[simp] theorem failLoop_arg (s : State) (f : Fail) : (failLoop s f).arg = s.arg := rfl
@[simp] theorem failLoop_phase (s : State) (f : Fail) : (failLoop s f).phase = .stop := rfl
@[simp] theorem failLoop_idx (s : State) (f : Fail) : (failLoop s f).idx = s.idx := rfl
@[simp] theorem failLoop_retry (s : State) (f : Fail) : (failLoop s f).retry = s.retry := rfl
@[simp] theorem failLoop_fr0 (s : State) (f : Fail) : (failLoop s f).fr0 = s.fr0 := rfl
@[simp] theorem failLoop_fr1 (s : State) (f : Fail) : (failLoop s f).fr1 = s.fr1 := rfl
@[simp] theorem failLoop_stage (s : State) (f : Fail) : (failLoop s f).stage = s.stage := rfl
@[simp] theorem failLoop_baudrate (s : State) (f : Fail) : (failLoop s f).baudrate = s.baudrate := rfl
@[simp] theorem failLoop_held (s : State) (f : Fail) : (failLoop s f).held = s.held := rfl
@[simp] theorem failLoop_inited (s : State) (f : Fail) : (failLoop s f).inited = s.inited := rfl
@[simp] theorem failLoop_lu (s : State) (f : Fail) : (failLoop s f).lu = s.lu := rfl
@[simp] theorem failLoop_extClken (s : State) (f : Fail) : (failLoop s f).extClken = s.extClken := rfl
@[simp] theorem failLoop_extPinmux (s : State) (f : Fail) : (failLoop s f).extPinmux = s.extPinmux := rfl
@[simp] theorem failLoop_divCnt (s : State) (f : Fail) : (failLoop s f).divCnt = s.divCnt := rfl
@[simp] theorem failLoop_sclHalf (s : State) (f : Fail) : (failLoop s f).sclHalf = s.sclHalf := rfl
@[simp] theorem failLoop_buf (s : State) (f : Fail) : (failLoop s f).buf = s.buf := rfl
@[simp] theorem failLoop_trace (s : State) (f : Fail) : (failLoop s f).trace = s.trace := rfl
@[simp] theorem failLoop_snap (s : State) (f : Fail) : (failLoop s f).snap = s.snap := rfl
@[simp] theorem failLoop_rxVal (s : State) (f : Fail) : (failLoop s f).rxVal = s.rxVal := rfl
@[simp] theorem failLoop_ret (s : State) (f : Fail) : (failLoop s f).ret = s.idx := rfl
@[simp] theorem failLoop_act (s : State) (f : Fail) : (failLoop s f).act = s.act := rfl
@[simp] theorem failLoop_agent (s : State) (f : Fail) : (failLoop s f).agent = s.agent := rfl
@[simp] theorem failLoop_tick (s : State) (f : Fail) : (failLoop s f).tick = s.tick := rfl
@[simp] theorem failLoop_host (s : State) (f : Fail) : (failLoop s f).host = s.host := rfl
@[simp] theorem failLoop_hostOut (s : State) (f : Fail) : (failLoop s f).hostOut = s.hostOut := rfl
@[simp] theorem failLoop_luPort (s : State) (f : Fail) : (failLoop s f).luPort = s.luPort := rfl

@[simp] theorem failAddr_params (s : State) : (failAddr s).params = s.params := rfl
@[simp] theorem failAddr_cmd (s : State) : (failAddr s).cmd = s.cmd := rfl
@[simp] theorem failAddr_count (s : State) : (failAddr s).count = s.count := rfl
@[simp] theorem failAddr_fail (s : State) : (failAddr s).fail = if s.fail = .none then .addrNack else s.fail := rfl
@[simp] theorem failAddr_op (s : State) : (failAddr s).op = s.op := rfl
@[simp] theorem failAddr_hold (s : State) : (failAddr s).hold = s.hold := rfl
@[simp] theorem failAddr_asize (s : State) : (failAddr s).asize = s.asize := rfl
@[simp] theorem failAddr_dev (s : State) : (failAddr s).dev = s.dev := rfl
@[simp] theorem failAddr_reg (s : State) : (failAddr s).reg = s.reg := rfl
@[simp] theorem failAddr_arg (s : State) : (failAddr s).arg = s.arg := rfl
@[simp] theorem failAddr_phase (s : State) : (failAddr s).phase = .stop := rfl
@[simp] theorem failAddr_idx (s : State) : (failAddr s).idx = s.idx := rfl
@[simp] theorem failAddr_retry (s : State) : (failAddr s).retry = s.retry := rfl
@[simp] theorem failAddr_fr0 (s : State) : (failAddr s).fr0 = s.fr0 := rfl
@[simp] theorem failAddr_fr1 (s : State) : (failAddr s).fr1 = s.fr1 := rfl
@[simp] theorem failAddr_stage (s : State) : (failAddr s).stage = s.stage := rfl
@[simp] theorem failAddr_baudrate (s : State) : (failAddr s).baudrate = s.baudrate := rfl
@[simp] theorem failAddr_held (s : State) : (failAddr s).held = s.held := rfl
@[simp] theorem failAddr_inited (s : State) : (failAddr s).inited = s.inited := rfl
@[simp] theorem failAddr_lu (s : State) : (failAddr s).lu = s.lu := rfl
@[simp] theorem failAddr_extClken (s : State) : (failAddr s).extClken = s.extClken := rfl
@[simp] theorem failAddr_extPinmux (s : State) : (failAddr s).extPinmux = s.extPinmux := rfl
@[simp] theorem failAddr_divCnt (s : State) : (failAddr s).divCnt = s.divCnt := rfl
@[simp] theorem failAddr_sclHalf (s : State) : (failAddr s).sclHalf = s.sclHalf := rfl
@[simp] theorem failAddr_buf (s : State) : (failAddr s).buf = s.buf := rfl
@[simp] theorem failAddr_trace (s : State) : (failAddr s).trace = s.trace := rfl
@[simp] theorem failAddr_snap (s : State) : (failAddr s).snap = s.snap := rfl
@[simp] theorem failAddr_rxVal (s : State) : (failAddr s).rxVal = s.rxVal := rfl
@[simp] theorem failAddr_ret (s : State) : (failAddr s).ret = 0 := rfl
@[simp] theorem failAddr_act (s : State) : (failAddr s).act = s.act := rfl
@[simp] theorem failAddr_agent (s : State) : (failAddr s).agent = s.agent := rfl
@[simp] theorem failAddr_tick (s : State) : (failAddr s).tick = s.tick := rfl
@[simp] theorem failAddr_host (s : State) : (failAddr s).host = s.host := rfl
@[simp] theorem failAddr_hostOut (s : State) : (failAddr s).hostOut = s.hostOut := rfl
@[simp] theorem failAddr_luPort (s : State) : (failAddr s).luPort = s.luPort := rfl

@[simp] theorem finish_params (s : State) : (finish s).params = s.params := rfl
@[simp] theorem finish_cmd (s : State) : (finish s).cmd = s.cmd := rfl
@[simp] theorem finish_count (s : State) : (finish s).count = s.ret := rfl
@[simp] theorem finish_fail (s : State) : (finish s).fail = s.fail := rfl
@[simp] theorem finish_op (s : State) : (finish s).op = s.op := rfl
@[simp] theorem finish_hold (s : State) : (finish s).hold = s.hold := rfl
@[simp] theorem finish_asize (s : State) : (finish s).asize = s.asize := rfl
@[simp] theorem finish_dev (s : State) : (finish s).dev = s.dev := rfl
@[simp] theorem finish_reg (s : State) : (finish s).reg = s.reg := rfl
@[simp] theorem finish_arg (s : State) : (finish s).arg = s.arg := rfl
@[simp] theorem finish_phase (s : State) : (finish s).phase = .idle := rfl
@[simp] theorem finish_idx (s : State) : (finish s).idx = s.idx := rfl
@[simp] theorem finish_retry (s : State) : (finish s).retry = s.retry := rfl
@[simp] theorem finish_fr0 (s : State) : (finish s).fr0 = s.fr0 := rfl
@[simp] theorem finish_fr1 (s : State) : (finish s).fr1 = s.fr1 := rfl
@[simp] theorem finish_stage (s : State) : (finish s).stage = if s.op = opReadRegs then false else s.stage := rfl
@[simp] theorem finish_baudrate (s : State) : (finish s).baudrate = s.baudrate := rfl
@[simp] theorem finish_held (s : State) : (finish s).held = s.held := rfl
@[simp] theorem finish_inited (s : State) : (finish s).inited = s.inited := rfl
@[simp] theorem finish_lu (s : State) : (finish s).lu = s.lu := rfl
@[simp] theorem finish_extClken (s : State) : (finish s).extClken = s.extClken := rfl
@[simp] theorem finish_extPinmux (s : State) : (finish s).extPinmux = s.extPinmux := rfl
@[simp] theorem finish_divCnt (s : State) : (finish s).divCnt = s.divCnt := rfl
@[simp] theorem finish_sclHalf (s : State) : (finish s).sclHalf = s.sclHalf := rfl
@[simp] theorem finish_buf (s : State) : (finish s).buf = s.buf := rfl
@[simp] theorem finish_trace (s : State) : (finish s).trace = s.trace := rfl
@[simp] theorem finish_snap (s : State) : (finish s).snap = s.snap := rfl
@[simp] theorem finish_rxVal (s : State) : (finish s).rxVal = s.rxVal := rfl
@[simp] theorem finish_ret (s : State) : (finish s).ret = s.ret := rfl
@[simp] theorem finish_act (s : State) : (finish s).act = s.act := rfl
@[simp] theorem finish_agent (s : State) : (finish s).agent = s.agent := rfl
@[simp] theorem finish_tick (s : State) : (finish s).tick = s.tick := rfl
@[simp] theorem finish_host (s : State) : (finish s).host = s.host := rfl
@[simp] theorem finish_hostOut (s : State) : (finish s).hostOut = s.hostOut := rfl
@[simp] theorem finish_luPort (s : State) : (finish s).luPort = s.luPort := rfl

@[simp] theorem setHost_params (s : State) (h : List HostAct) : (s.setHost h).params = s.params := rfl
@[simp] theorem setHost_cmd (s : State) (h : List HostAct) : (s.setHost h).cmd = s.cmd := rfl
@[simp] theorem setHost_count (s : State) (h : List HostAct) : (s.setHost h).count = s.count := rfl
@[simp] theorem setHost_fail (s : State) (h : List HostAct) : (s.setHost h).fail = s.fail := rfl
@[simp] theorem setHost_op (s : State) (h : List HostAct) : (s.setHost h).op = s.op := rfl
@[simp] theorem setHost_hold (s : State) (h : List HostAct) : (s.setHost h).hold = s.hold := rfl
@[simp] theorem setHost_asize (s : State) (h : List HostAct) : (s.setHost h).asize = s.asize := rfl
@[simp] theorem setHost_dev (s : State) (h : List HostAct) : (s.setHost h).dev = s.dev := rfl
@[simp] theorem setHost_reg (s : State) (h : List HostAct) : (s.setHost h).reg = s.reg := rfl
@[simp] theorem setHost_arg (s : State) (h : List HostAct) : (s.setHost h).arg = s.arg := rfl
@[simp] theorem setHost_phase (s : State) (h : List HostAct) : (s.setHost h).phase = s.phase := rfl
@[simp] theorem setHost_idx (s : State) (h : List HostAct) : (s.setHost h).idx = s.idx := rfl
@[simp] theorem setHost_retry (s : State) (h : List HostAct) : (s.setHost h).retry = s.retry := rfl
@[simp] theorem setHost_fr0 (s : State) (h : List HostAct) : (s.setHost h).fr0 = s.fr0 := rfl
@[simp] theorem setHost_fr1 (s : State) (h : List HostAct) : (s.setHost h).fr1 = s.fr1 := rfl
@[simp] theorem setHost_stage (s : State) (h : List HostAct) : (s.setHost h).stage = s.stage := rfl
@[simp] theorem setHost_baudrate (s : State) (h : List HostAct) : (s.setHost h).baudrate = s.baudrate := rfl
@[simp] theorem setHost_held (s : State) (h : List HostAct) : (s.setHost h).held = s.held := rfl
@[simp] theorem setHost_inited (s : State) (h : List HostAct) : (s.setHost h).inited = s.inited := rfl
@[simp] theorem setHost_lu (s : State) (h : List HostAct) : (s.setHost h).lu = s.lu := rfl
@[simp] theorem setHost_extClken (s : State) (h : List HostAct) : (s.setHost h).extClken = s.extClken := rfl
@[simp] theorem setHost_extPinmux (s : State) (h : List HostAct) : (s.setHost h).extPinmux = s.extPinmux := rfl
@[simp] theorem setHost_divCnt (s : State) (h : List HostAct) : (s.setHost h).divCnt = s.divCnt := rfl
@[simp] theorem setHost_sclHalf (s : State) (h : List HostAct) : (s.setHost h).sclHalf = s.sclHalf := rfl
@[simp] theorem setHost_buf (s : State) (h : List HostAct) : (s.setHost h).buf = s.buf := rfl
@[simp] theorem setHost_trace (s : State) (h : List HostAct) : (s.setHost h).trace = s.trace := rfl
@[simp] theorem setHost_snap (s : State) (h : List HostAct) : (s.setHost h).snap = s.snap := rfl
@[simp] theorem setHost_rxVal (s : State) (h : List HostAct) : (s.setHost h).rxVal = s.rxVal := rfl
@[simp] theorem setHost_ret (s : State) (h : List HostAct) : (s.setHost h).ret = s.ret := rfl
@[simp] theorem setHost_act (s : State) (h : List HostAct) : (s.setHost h).act = s.act := rfl
@[simp] theorem setHost_agent (s : State) (h : List HostAct) : (s.setHost h).agent = s.agent := rfl
@[simp] theorem setHost_tick (s : State) (h : List HostAct) : (s.setHost h).tick = s.tick := rfl
@[simp] theorem setHost_host (s : State) (h : List HostAct) : (s.setHost h).host = h := rfl
@[simp] theorem setHost_hostOut (s : State) (h : List HostAct) : (s.setHost h).hostOut = s.hostOut := rfl
@[simp] theorem setHost_luPort (s : State) (h : List HostAct) : (s.setHost h).luPort = s.luPort := rfl

@[simp] theorem setPort_params (s : State) (a : Option LuAccess) : (s.setPort a).params = s.params := rfl
@[simp] theorem setPort_cmd (s : State) (a : Option LuAccess) : (s.setPort a).cmd = s.cmd := rfl
@[simp] theorem setPort_count (s : State) (a : Option LuAccess) : (s.setPort a).count = s.count := rfl
@[simp] theorem setPort_fail (s : State) (a : Option LuAccess) : (s.setPort a).fail = s.fail := rfl
@[simp] theorem setPort_op (s : State) (a : Option LuAccess) : (s.setPort a).op = s.op := rfl
@[simp] theorem setPort_hold (s : State) (a : Option LuAccess) : (s.setPort a).hold = s.hold := rfl
@[simp] theorem setPort_asize (s : State) (a : Option LuAccess) : (s.setPort a).asize = s.asize := rfl
@[simp] theorem setPort_dev (s : State) (a : Option LuAccess) : (s.setPort a).dev = s.dev := rfl
@[simp] theorem setPort_reg (s : State) (a : Option LuAccess) : (s.setPort a).reg = s.reg := rfl
@[simp] theorem setPort_arg (s : State) (a : Option LuAccess) : (s.setPort a).arg = s.arg := rfl
@[simp] theorem setPort_phase (s : State) (a : Option LuAccess) : (s.setPort a).phase = s.phase := rfl
@[simp] theorem setPort_idx (s : State) (a : Option LuAccess) : (s.setPort a).idx = s.idx := rfl
@[simp] theorem setPort_retry (s : State) (a : Option LuAccess) : (s.setPort a).retry = s.retry := rfl
@[simp] theorem setPort_fr0 (s : State) (a : Option LuAccess) : (s.setPort a).fr0 = s.fr0 := rfl
@[simp] theorem setPort_fr1 (s : State) (a : Option LuAccess) : (s.setPort a).fr1 = s.fr1 := rfl
@[simp] theorem setPort_stage (s : State) (a : Option LuAccess) : (s.setPort a).stage = s.stage := rfl
@[simp] theorem setPort_baudrate (s : State) (a : Option LuAccess) : (s.setPort a).baudrate = s.baudrate := rfl
@[simp] theorem setPort_held (s : State) (a : Option LuAccess) : (s.setPort a).held = s.held := rfl
@[simp] theorem setPort_inited (s : State) (a : Option LuAccess) : (s.setPort a).inited = s.inited := rfl
@[simp] theorem setPort_lu (s : State) (a : Option LuAccess) : (s.setPort a).lu = s.lu := rfl
@[simp] theorem setPort_extClken (s : State) (a : Option LuAccess) : (s.setPort a).extClken = s.extClken := rfl
@[simp] theorem setPort_extPinmux (s : State) (a : Option LuAccess) : (s.setPort a).extPinmux = s.extPinmux := rfl
@[simp] theorem setPort_divCnt (s : State) (a : Option LuAccess) : (s.setPort a).divCnt = s.divCnt := rfl
@[simp] theorem setPort_sclHalf (s : State) (a : Option LuAccess) : (s.setPort a).sclHalf = s.sclHalf := rfl
@[simp] theorem setPort_buf (s : State) (a : Option LuAccess) : (s.setPort a).buf = s.buf := rfl
@[simp] theorem setPort_trace (s : State) (a : Option LuAccess) : (s.setPort a).trace = s.trace := rfl
@[simp] theorem setPort_snap (s : State) (a : Option LuAccess) : (s.setPort a).snap = s.snap := rfl
@[simp] theorem setPort_rxVal (s : State) (a : Option LuAccess) : (s.setPort a).rxVal = s.rxVal := rfl
@[simp] theorem setPort_ret (s : State) (a : Option LuAccess) : (s.setPort a).ret = s.ret := rfl
@[simp] theorem setPort_act (s : State) (a : Option LuAccess) : (s.setPort a).act = s.act := rfl
@[simp] theorem setPort_agent (s : State) (a : Option LuAccess) : (s.setPort a).agent = s.agent := rfl
@[simp] theorem setPort_tick (s : State) (a : Option LuAccess) : (s.setPort a).tick = s.tick := rfl
@[simp] theorem setPort_host (s : State) (a : Option LuAccess) : (s.setPort a).host = s.host := rfl
@[simp] theorem setPort_hostOut (s : State) (a : Option LuAccess) : (s.setPort a).hostOut = s.hostOut := rfl
@[simp] theorem setPort_luPort (s : State) (a : Option LuAccess) : (s.setPort a).luPort = a := rfl

@[simp] theorem setCmd_params (s : State) (d : BitVec 64) : (s.setCmd d).params = s.params := rfl
@[simp] theorem setCmd_cmd (s : State) (d : BitVec 64) : (s.setCmd d).cmd = d := rfl
@[simp] theorem setCmd_count (s : State) (d : BitVec 64) : (s.setCmd d).count = s.count := rfl
@[simp] theorem setCmd_fail (s : State) (d : BitVec 64) : (s.setCmd d).fail = s.fail := rfl
@[simp] theorem setCmd_op (s : State) (d : BitVec 64) : (s.setCmd d).op = s.op := rfl
@[simp] theorem setCmd_hold (s : State) (d : BitVec 64) : (s.setCmd d).hold = s.hold := rfl
@[simp] theorem setCmd_asize (s : State) (d : BitVec 64) : (s.setCmd d).asize = s.asize := rfl
@[simp] theorem setCmd_dev (s : State) (d : BitVec 64) : (s.setCmd d).dev = s.dev := rfl
@[simp] theorem setCmd_reg (s : State) (d : BitVec 64) : (s.setCmd d).reg = s.reg := rfl
@[simp] theorem setCmd_arg (s : State) (d : BitVec 64) : (s.setCmd d).arg = s.arg := rfl
@[simp] theorem setCmd_phase (s : State) (d : BitVec 64) : (s.setCmd d).phase = s.phase := rfl
@[simp] theorem setCmd_idx (s : State) (d : BitVec 64) : (s.setCmd d).idx = s.idx := rfl
@[simp] theorem setCmd_retry (s : State) (d : BitVec 64) : (s.setCmd d).retry = s.retry := rfl
@[simp] theorem setCmd_fr0 (s : State) (d : BitVec 64) : (s.setCmd d).fr0 = s.fr0 := rfl
@[simp] theorem setCmd_fr1 (s : State) (d : BitVec 64) : (s.setCmd d).fr1 = s.fr1 := rfl
@[simp] theorem setCmd_stage (s : State) (d : BitVec 64) : (s.setCmd d).stage = s.stage := rfl
@[simp] theorem setCmd_baudrate (s : State) (d : BitVec 64) : (s.setCmd d).baudrate = s.baudrate := rfl
@[simp] theorem setCmd_held (s : State) (d : BitVec 64) : (s.setCmd d).held = s.held := rfl
@[simp] theorem setCmd_inited (s : State) (d : BitVec 64) : (s.setCmd d).inited = s.inited := rfl
@[simp] theorem setCmd_lu (s : State) (d : BitVec 64) : (s.setCmd d).lu = s.lu := rfl
@[simp] theorem setCmd_extClken (s : State) (d : BitVec 64) : (s.setCmd d).extClken = s.extClken := rfl
@[simp] theorem setCmd_extPinmux (s : State) (d : BitVec 64) : (s.setCmd d).extPinmux = s.extPinmux := rfl
@[simp] theorem setCmd_divCnt (s : State) (d : BitVec 64) : (s.setCmd d).divCnt = s.divCnt := rfl
@[simp] theorem setCmd_sclHalf (s : State) (d : BitVec 64) : (s.setCmd d).sclHalf = s.sclHalf := rfl
@[simp] theorem setCmd_buf (s : State) (d : BitVec 64) : (s.setCmd d).buf = s.buf := rfl
@[simp] theorem setCmd_trace (s : State) (d : BitVec 64) : (s.setCmd d).trace = s.trace := rfl
@[simp] theorem setCmd_snap (s : State) (d : BitVec 64) : (s.setCmd d).snap = s.snap := rfl
@[simp] theorem setCmd_rxVal (s : State) (d : BitVec 64) : (s.setCmd d).rxVal = s.rxVal := rfl
@[simp] theorem setCmd_ret (s : State) (d : BitVec 64) : (s.setCmd d).ret = s.ret := rfl
@[simp] theorem setCmd_act (s : State) (d : BitVec 64) : (s.setCmd d).act = s.act := rfl
@[simp] theorem setCmd_agent (s : State) (d : BitVec 64) : (s.setCmd d).agent = s.agent := rfl
@[simp] theorem setCmd_tick (s : State) (d : BitVec 64) : (s.setCmd d).tick = s.tick := rfl
@[simp] theorem setCmd_host (s : State) (d : BitVec 64) : (s.setCmd d).host = s.host := rfl
@[simp] theorem setCmd_hostOut (s : State) (d : BitVec 64) : (s.setCmd d).hostOut = s.hostOut := rfl
@[simp] theorem setCmd_luPort (s : State) (d : BitVec 64) : (s.setCmd d).luPort = s.luPort := rfl

@[simp] theorem setAgent_params (s : State) (a : List (List EnvMove)) : (s.setAgent a).params = s.params := rfl
@[simp] theorem setAgent_cmd (s : State) (a : List (List EnvMove)) : (s.setAgent a).cmd = s.cmd := rfl
@[simp] theorem setAgent_count (s : State) (a : List (List EnvMove)) : (s.setAgent a).count = s.count := rfl
@[simp] theorem setAgent_fail (s : State) (a : List (List EnvMove)) : (s.setAgent a).fail = s.fail := rfl
@[simp] theorem setAgent_op (s : State) (a : List (List EnvMove)) : (s.setAgent a).op = s.op := rfl
@[simp] theorem setAgent_hold (s : State) (a : List (List EnvMove)) : (s.setAgent a).hold = s.hold := rfl
@[simp] theorem setAgent_asize (s : State) (a : List (List EnvMove)) : (s.setAgent a).asize = s.asize := rfl
@[simp] theorem setAgent_dev (s : State) (a : List (List EnvMove)) : (s.setAgent a).dev = s.dev := rfl
@[simp] theorem setAgent_reg (s : State) (a : List (List EnvMove)) : (s.setAgent a).reg = s.reg := rfl
@[simp] theorem setAgent_arg (s : State) (a : List (List EnvMove)) : (s.setAgent a).arg = s.arg := rfl
@[simp] theorem setAgent_phase (s : State) (a : List (List EnvMove)) : (s.setAgent a).phase = s.phase := rfl
@[simp] theorem setAgent_idx (s : State) (a : List (List EnvMove)) : (s.setAgent a).idx = s.idx := rfl
@[simp] theorem setAgent_retry (s : State) (a : List (List EnvMove)) : (s.setAgent a).retry = s.retry := rfl
@[simp] theorem setAgent_fr0 (s : State) (a : List (List EnvMove)) : (s.setAgent a).fr0 = s.fr0 := rfl
@[simp] theorem setAgent_fr1 (s : State) (a : List (List EnvMove)) : (s.setAgent a).fr1 = s.fr1 := rfl
@[simp] theorem setAgent_stage (s : State) (a : List (List EnvMove)) : (s.setAgent a).stage = s.stage := rfl
@[simp] theorem setAgent_baudrate (s : State) (a : List (List EnvMove)) : (s.setAgent a).baudrate = s.baudrate := rfl
@[simp] theorem setAgent_held (s : State) (a : List (List EnvMove)) : (s.setAgent a).held = s.held := rfl
@[simp] theorem setAgent_inited (s : State) (a : List (List EnvMove)) : (s.setAgent a).inited = s.inited := rfl
@[simp] theorem setAgent_lu (s : State) (a : List (List EnvMove)) : (s.setAgent a).lu = s.lu := rfl
@[simp] theorem setAgent_extClken (s : State) (a : List (List EnvMove)) : (s.setAgent a).extClken = s.extClken := rfl
@[simp] theorem setAgent_extPinmux (s : State) (a : List (List EnvMove)) : (s.setAgent a).extPinmux = s.extPinmux := rfl
@[simp] theorem setAgent_divCnt (s : State) (a : List (List EnvMove)) : (s.setAgent a).divCnt = s.divCnt := rfl
@[simp] theorem setAgent_sclHalf (s : State) (a : List (List EnvMove)) : (s.setAgent a).sclHalf = s.sclHalf := rfl
@[simp] theorem setAgent_buf (s : State) (a : List (List EnvMove)) : (s.setAgent a).buf = s.buf := rfl
@[simp] theorem setAgent_trace (s : State) (a : List (List EnvMove)) : (s.setAgent a).trace = s.trace := rfl
@[simp] theorem setAgent_snap (s : State) (a : List (List EnvMove)) : (s.setAgent a).snap = s.snap := rfl
@[simp] theorem setAgent_rxVal (s : State) (a : List (List EnvMove)) : (s.setAgent a).rxVal = s.rxVal := rfl
@[simp] theorem setAgent_ret (s : State) (a : List (List EnvMove)) : (s.setAgent a).ret = s.ret := rfl
@[simp] theorem setAgent_act (s : State) (a : List (List EnvMove)) : (s.setAgent a).act = s.act := rfl
@[simp] theorem setAgent_agent (s : State) (a : List (List EnvMove)) : (s.setAgent a).agent = a := rfl
@[simp] theorem setAgent_tick (s : State) (a : List (List EnvMove)) : (s.setAgent a).tick = s.tick := rfl
@[simp] theorem setAgent_host (s : State) (a : List (List EnvMove)) : (s.setAgent a).host = s.host := rfl
@[simp] theorem setAgent_hostOut (s : State) (a : List (List EnvMove)) : (s.setAgent a).hostOut = s.hostOut := rfl
@[simp] theorem setAgent_luPort (s : State) (a : List (List EnvMove)) : (s.setAgent a).luPort = s.luPort := rfl

@[simp] theorem setBuf_params (s : State) (m : List Host.Cell) : (s.setBuf m).params = s.params := rfl
@[simp] theorem setBuf_cmd (s : State) (m : List Host.Cell) : (s.setBuf m).cmd = s.cmd := rfl
@[simp] theorem setBuf_count (s : State) (m : List Host.Cell) : (s.setBuf m).count = s.count := rfl
@[simp] theorem setBuf_fail (s : State) (m : List Host.Cell) : (s.setBuf m).fail = s.fail := rfl
@[simp] theorem setBuf_op (s : State) (m : List Host.Cell) : (s.setBuf m).op = s.op := rfl
@[simp] theorem setBuf_hold (s : State) (m : List Host.Cell) : (s.setBuf m).hold = s.hold := rfl
@[simp] theorem setBuf_asize (s : State) (m : List Host.Cell) : (s.setBuf m).asize = s.asize := rfl
@[simp] theorem setBuf_dev (s : State) (m : List Host.Cell) : (s.setBuf m).dev = s.dev := rfl
@[simp] theorem setBuf_reg (s : State) (m : List Host.Cell) : (s.setBuf m).reg = s.reg := rfl
@[simp] theorem setBuf_arg (s : State) (m : List Host.Cell) : (s.setBuf m).arg = s.arg := rfl
@[simp] theorem setBuf_phase (s : State) (m : List Host.Cell) : (s.setBuf m).phase = s.phase := rfl
@[simp] theorem setBuf_idx (s : State) (m : List Host.Cell) : (s.setBuf m).idx = s.idx := rfl
@[simp] theorem setBuf_retry (s : State) (m : List Host.Cell) : (s.setBuf m).retry = s.retry := rfl
@[simp] theorem setBuf_fr0 (s : State) (m : List Host.Cell) : (s.setBuf m).fr0 = s.fr0 := rfl
@[simp] theorem setBuf_fr1 (s : State) (m : List Host.Cell) : (s.setBuf m).fr1 = s.fr1 := rfl
@[simp] theorem setBuf_stage (s : State) (m : List Host.Cell) : (s.setBuf m).stage = s.stage := rfl
@[simp] theorem setBuf_baudrate (s : State) (m : List Host.Cell) : (s.setBuf m).baudrate = s.baudrate := rfl
@[simp] theorem setBuf_held (s : State) (m : List Host.Cell) : (s.setBuf m).held = s.held := rfl
@[simp] theorem setBuf_inited (s : State) (m : List Host.Cell) : (s.setBuf m).inited = s.inited := rfl
@[simp] theorem setBuf_lu (s : State) (m : List Host.Cell) : (s.setBuf m).lu = s.lu := rfl
@[simp] theorem setBuf_extClken (s : State) (m : List Host.Cell) : (s.setBuf m).extClken = s.extClken := rfl
@[simp] theorem setBuf_extPinmux (s : State) (m : List Host.Cell) : (s.setBuf m).extPinmux = s.extPinmux := rfl
@[simp] theorem setBuf_divCnt (s : State) (m : List Host.Cell) : (s.setBuf m).divCnt = s.divCnt := rfl
@[simp] theorem setBuf_sclHalf (s : State) (m : List Host.Cell) : (s.setBuf m).sclHalf = s.sclHalf := rfl
@[simp] theorem setBuf_buf (s : State) (m : List Host.Cell) : (s.setBuf m).buf = m := rfl
@[simp] theorem setBuf_trace (s : State) (m : List Host.Cell) : (s.setBuf m).trace = s.trace := rfl
@[simp] theorem setBuf_snap (s : State) (m : List Host.Cell) : (s.setBuf m).snap = s.snap := rfl
@[simp] theorem setBuf_rxVal (s : State) (m : List Host.Cell) : (s.setBuf m).rxVal = s.rxVal := rfl
@[simp] theorem setBuf_ret (s : State) (m : List Host.Cell) : (s.setBuf m).ret = s.ret := rfl
@[simp] theorem setBuf_act (s : State) (m : List Host.Cell) : (s.setBuf m).act = s.act := rfl
@[simp] theorem setBuf_agent (s : State) (m : List Host.Cell) : (s.setBuf m).agent = s.agent := rfl
@[simp] theorem setBuf_tick (s : State) (m : List Host.Cell) : (s.setBuf m).tick = s.tick := rfl
@[simp] theorem setBuf_host (s : State) (m : List Host.Cell) : (s.setBuf m).host = s.host := rfl
@[simp] theorem setBuf_hostOut (s : State) (m : List Host.Cell) : (s.setBuf m).hostOut = s.hostOut := rfl
@[simp] theorem setBuf_luPort (s : State) (m : List Host.Cell) : (s.setBuf m).luPort = s.luPort := rfl

@[simp] theorem setIdx_params (s : State) (i : BitVec 17) : (s.setIdx i).params = s.params := rfl
@[simp] theorem setIdx_cmd (s : State) (i : BitVec 17) : (s.setIdx i).cmd = s.cmd := rfl
@[simp] theorem setIdx_count (s : State) (i : BitVec 17) : (s.setIdx i).count = s.count := rfl
@[simp] theorem setIdx_fail (s : State) (i : BitVec 17) : (s.setIdx i).fail = s.fail := rfl
@[simp] theorem setIdx_op (s : State) (i : BitVec 17) : (s.setIdx i).op = s.op := rfl
@[simp] theorem setIdx_hold (s : State) (i : BitVec 17) : (s.setIdx i).hold = s.hold := rfl
@[simp] theorem setIdx_asize (s : State) (i : BitVec 17) : (s.setIdx i).asize = s.asize := rfl
@[simp] theorem setIdx_dev (s : State) (i : BitVec 17) : (s.setIdx i).dev = s.dev := rfl
@[simp] theorem setIdx_reg (s : State) (i : BitVec 17) : (s.setIdx i).reg = s.reg := rfl
@[simp] theorem setIdx_arg (s : State) (i : BitVec 17) : (s.setIdx i).arg = s.arg := rfl
@[simp] theorem setIdx_phase (s : State) (i : BitVec 17) : (s.setIdx i).phase = s.phase := rfl
@[simp] theorem setIdx_idx (s : State) (i : BitVec 17) : (s.setIdx i).idx = i := rfl
@[simp] theorem setIdx_retry (s : State) (i : BitVec 17) : (s.setIdx i).retry = s.retry := rfl
@[simp] theorem setIdx_fr0 (s : State) (i : BitVec 17) : (s.setIdx i).fr0 = s.fr0 := rfl
@[simp] theorem setIdx_fr1 (s : State) (i : BitVec 17) : (s.setIdx i).fr1 = s.fr1 := rfl
@[simp] theorem setIdx_stage (s : State) (i : BitVec 17) : (s.setIdx i).stage = s.stage := rfl
@[simp] theorem setIdx_baudrate (s : State) (i : BitVec 17) : (s.setIdx i).baudrate = s.baudrate := rfl
@[simp] theorem setIdx_held (s : State) (i : BitVec 17) : (s.setIdx i).held = s.held := rfl
@[simp] theorem setIdx_inited (s : State) (i : BitVec 17) : (s.setIdx i).inited = s.inited := rfl
@[simp] theorem setIdx_lu (s : State) (i : BitVec 17) : (s.setIdx i).lu = s.lu := rfl
@[simp] theorem setIdx_extClken (s : State) (i : BitVec 17) : (s.setIdx i).extClken = s.extClken := rfl
@[simp] theorem setIdx_extPinmux (s : State) (i : BitVec 17) : (s.setIdx i).extPinmux = s.extPinmux := rfl
@[simp] theorem setIdx_divCnt (s : State) (i : BitVec 17) : (s.setIdx i).divCnt = s.divCnt := rfl
@[simp] theorem setIdx_sclHalf (s : State) (i : BitVec 17) : (s.setIdx i).sclHalf = s.sclHalf := rfl
@[simp] theorem setIdx_buf (s : State) (i : BitVec 17) : (s.setIdx i).buf = s.buf := rfl
@[simp] theorem setIdx_trace (s : State) (i : BitVec 17) : (s.setIdx i).trace = s.trace := rfl
@[simp] theorem setIdx_snap (s : State) (i : BitVec 17) : (s.setIdx i).snap = s.snap := rfl
@[simp] theorem setIdx_rxVal (s : State) (i : BitVec 17) : (s.setIdx i).rxVal = s.rxVal := rfl
@[simp] theorem setIdx_ret (s : State) (i : BitVec 17) : (s.setIdx i).ret = s.ret := rfl
@[simp] theorem setIdx_act (s : State) (i : BitVec 17) : (s.setIdx i).act = s.act := rfl
@[simp] theorem setIdx_agent (s : State) (i : BitVec 17) : (s.setIdx i).agent = s.agent := rfl
@[simp] theorem setIdx_tick (s : State) (i : BitVec 17) : (s.setIdx i).tick = s.tick := rfl
@[simp] theorem setIdx_host (s : State) (i : BitVec 17) : (s.setIdx i).host = s.host := rfl
@[simp] theorem setIdx_hostOut (s : State) (i : BitVec 17) : (s.setIdx i).hostOut = s.hostOut := rfl
@[simp] theorem setIdx_luPort (s : State) (i : BitVec 17) : (s.setIdx i).luPort = s.luPort := rfl

@[simp] theorem setSnap_params (s : State) (p : Snapshot) : (s.setSnap p).params = s.params := rfl
@[simp] theorem setSnap_cmd (s : State) (p : Snapshot) : (s.setSnap p).cmd = s.cmd := rfl
@[simp] theorem setSnap_count (s : State) (p : Snapshot) : (s.setSnap p).count = s.count := rfl
@[simp] theorem setSnap_fail (s : State) (p : Snapshot) : (s.setSnap p).fail = s.fail := rfl
@[simp] theorem setSnap_op (s : State) (p : Snapshot) : (s.setSnap p).op = s.op := rfl
@[simp] theorem setSnap_hold (s : State) (p : Snapshot) : (s.setSnap p).hold = s.hold := rfl
@[simp] theorem setSnap_asize (s : State) (p : Snapshot) : (s.setSnap p).asize = s.asize := rfl
@[simp] theorem setSnap_dev (s : State) (p : Snapshot) : (s.setSnap p).dev = s.dev := rfl
@[simp] theorem setSnap_reg (s : State) (p : Snapshot) : (s.setSnap p).reg = s.reg := rfl
@[simp] theorem setSnap_arg (s : State) (p : Snapshot) : (s.setSnap p).arg = s.arg := rfl
@[simp] theorem setSnap_phase (s : State) (p : Snapshot) : (s.setSnap p).phase = s.phase := rfl
@[simp] theorem setSnap_idx (s : State) (p : Snapshot) : (s.setSnap p).idx = s.idx := rfl
@[simp] theorem setSnap_retry (s : State) (p : Snapshot) : (s.setSnap p).retry = s.retry := rfl
@[simp] theorem setSnap_fr0 (s : State) (p : Snapshot) : (s.setSnap p).fr0 = s.fr0 := rfl
@[simp] theorem setSnap_fr1 (s : State) (p : Snapshot) : (s.setSnap p).fr1 = s.fr1 := rfl
@[simp] theorem setSnap_stage (s : State) (p : Snapshot) : (s.setSnap p).stage = s.stage := rfl
@[simp] theorem setSnap_baudrate (s : State) (p : Snapshot) : (s.setSnap p).baudrate = s.baudrate := rfl
@[simp] theorem setSnap_held (s : State) (p : Snapshot) : (s.setSnap p).held = s.held := rfl
@[simp] theorem setSnap_inited (s : State) (p : Snapshot) : (s.setSnap p).inited = s.inited := rfl
@[simp] theorem setSnap_lu (s : State) (p : Snapshot) : (s.setSnap p).lu = s.lu := rfl
@[simp] theorem setSnap_extClken (s : State) (p : Snapshot) : (s.setSnap p).extClken = s.extClken := rfl
@[simp] theorem setSnap_extPinmux (s : State) (p : Snapshot) : (s.setSnap p).extPinmux = s.extPinmux := rfl
@[simp] theorem setSnap_divCnt (s : State) (p : Snapshot) : (s.setSnap p).divCnt = s.divCnt := rfl
@[simp] theorem setSnap_sclHalf (s : State) (p : Snapshot) : (s.setSnap p).sclHalf = s.sclHalf := rfl
@[simp] theorem setSnap_buf (s : State) (p : Snapshot) : (s.setSnap p).buf = s.buf := rfl
@[simp] theorem setSnap_trace (s : State) (p : Snapshot) : (s.setSnap p).trace = s.trace := rfl
@[simp] theorem setSnap_snap (s : State) (p : Snapshot) : (s.setSnap p).snap = p := rfl
@[simp] theorem setSnap_rxVal (s : State) (p : Snapshot) : (s.setSnap p).rxVal = s.rxVal := rfl
@[simp] theorem setSnap_ret (s : State) (p : Snapshot) : (s.setSnap p).ret = s.ret := rfl
@[simp] theorem setSnap_act (s : State) (p : Snapshot) : (s.setSnap p).act = s.act := rfl
@[simp] theorem setSnap_agent (s : State) (p : Snapshot) : (s.setSnap p).agent = s.agent := rfl
@[simp] theorem setSnap_tick (s : State) (p : Snapshot) : (s.setSnap p).tick = s.tick := rfl
@[simp] theorem setSnap_host (s : State) (p : Snapshot) : (s.setSnap p).host = s.host := rfl
@[simp] theorem setSnap_hostOut (s : State) (p : Snapshot) : (s.setSnap p).hostOut = s.hostOut := rfl
@[simp] theorem setSnap_luPort (s : State) (p : Snapshot) : (s.setSnap p).luPort = s.luPort := rfl

@[simp] theorem setAct_params (s : State) (b : Bool) : (s.setAct b).params = s.params := rfl
@[simp] theorem setAct_cmd (s : State) (b : Bool) : (s.setAct b).cmd = s.cmd := rfl
@[simp] theorem setAct_count (s : State) (b : Bool) : (s.setAct b).count = s.count := rfl
@[simp] theorem setAct_fail (s : State) (b : Bool) : (s.setAct b).fail = s.fail := rfl
@[simp] theorem setAct_op (s : State) (b : Bool) : (s.setAct b).op = s.op := rfl
@[simp] theorem setAct_hold (s : State) (b : Bool) : (s.setAct b).hold = s.hold := rfl
@[simp] theorem setAct_asize (s : State) (b : Bool) : (s.setAct b).asize = s.asize := rfl
@[simp] theorem setAct_dev (s : State) (b : Bool) : (s.setAct b).dev = s.dev := rfl
@[simp] theorem setAct_reg (s : State) (b : Bool) : (s.setAct b).reg = s.reg := rfl
@[simp] theorem setAct_arg (s : State) (b : Bool) : (s.setAct b).arg = s.arg := rfl
@[simp] theorem setAct_phase (s : State) (b : Bool) : (s.setAct b).phase = s.phase := rfl
@[simp] theorem setAct_idx (s : State) (b : Bool) : (s.setAct b).idx = s.idx := rfl
@[simp] theorem setAct_retry (s : State) (b : Bool) : (s.setAct b).retry = s.retry := rfl
@[simp] theorem setAct_fr0 (s : State) (b : Bool) : (s.setAct b).fr0 = s.fr0 := rfl
@[simp] theorem setAct_fr1 (s : State) (b : Bool) : (s.setAct b).fr1 = s.fr1 := rfl
@[simp] theorem setAct_stage (s : State) (b : Bool) : (s.setAct b).stage = s.stage := rfl
@[simp] theorem setAct_baudrate (s : State) (b : Bool) : (s.setAct b).baudrate = s.baudrate := rfl
@[simp] theorem setAct_held (s : State) (b : Bool) : (s.setAct b).held = s.held := rfl
@[simp] theorem setAct_inited (s : State) (b : Bool) : (s.setAct b).inited = s.inited := rfl
@[simp] theorem setAct_lu (s : State) (b : Bool) : (s.setAct b).lu = s.lu := rfl
@[simp] theorem setAct_extClken (s : State) (b : Bool) : (s.setAct b).extClken = s.extClken := rfl
@[simp] theorem setAct_extPinmux (s : State) (b : Bool) : (s.setAct b).extPinmux = s.extPinmux := rfl
@[simp] theorem setAct_divCnt (s : State) (b : Bool) : (s.setAct b).divCnt = s.divCnt := rfl
@[simp] theorem setAct_sclHalf (s : State) (b : Bool) : (s.setAct b).sclHalf = s.sclHalf := rfl
@[simp] theorem setAct_buf (s : State) (b : Bool) : (s.setAct b).buf = s.buf := rfl
@[simp] theorem setAct_trace (s : State) (b : Bool) : (s.setAct b).trace = s.trace := rfl
@[simp] theorem setAct_snap (s : State) (b : Bool) : (s.setAct b).snap = s.snap := rfl
@[simp] theorem setAct_rxVal (s : State) (b : Bool) : (s.setAct b).rxVal = s.rxVal := rfl
@[simp] theorem setAct_ret (s : State) (b : Bool) : (s.setAct b).ret = s.ret := rfl
@[simp] theorem setAct_act (s : State) (b : Bool) : (s.setAct b).act = b := rfl
@[simp] theorem setAct_agent (s : State) (b : Bool) : (s.setAct b).agent = s.agent := rfl
@[simp] theorem setAct_tick (s : State) (b : Bool) : (s.setAct b).tick = s.tick := rfl
@[simp] theorem setAct_host (s : State) (b : Bool) : (s.setAct b).host = s.host := rfl
@[simp] theorem setAct_hostOut (s : State) (b : Bool) : (s.setAct b).hostOut = s.hostOut := rfl
@[simp] theorem setAct_luPort (s : State) (b : Bool) : (s.setAct b).luPort = s.luPort := rfl

@[simp] theorem setRetry_params (s : State) (n : Nat) : (s.setRetry n).params = s.params := rfl
@[simp] theorem setRetry_cmd (s : State) (n : Nat) : (s.setRetry n).cmd = s.cmd := rfl
@[simp] theorem setRetry_count (s : State) (n : Nat) : (s.setRetry n).count = s.count := rfl
@[simp] theorem setRetry_fail (s : State) (n : Nat) : (s.setRetry n).fail = s.fail := rfl
@[simp] theorem setRetry_op (s : State) (n : Nat) : (s.setRetry n).op = s.op := rfl
@[simp] theorem setRetry_hold (s : State) (n : Nat) : (s.setRetry n).hold = s.hold := rfl
@[simp] theorem setRetry_asize (s : State) (n : Nat) : (s.setRetry n).asize = s.asize := rfl
@[simp] theorem setRetry_dev (s : State) (n : Nat) : (s.setRetry n).dev = s.dev := rfl
@[simp] theorem setRetry_reg (s : State) (n : Nat) : (s.setRetry n).reg = s.reg := rfl
@[simp] theorem setRetry_arg (s : State) (n : Nat) : (s.setRetry n).arg = s.arg := rfl
@[simp] theorem setRetry_phase (s : State) (n : Nat) : (s.setRetry n).phase = s.phase := rfl
@[simp] theorem setRetry_idx (s : State) (n : Nat) : (s.setRetry n).idx = s.idx := rfl
@[simp] theorem setRetry_retry (s : State) (n : Nat) : (s.setRetry n).retry = n := rfl
@[simp] theorem setRetry_fr0 (s : State) (n : Nat) : (s.setRetry n).fr0 = s.fr0 := rfl
@[simp] theorem setRetry_fr1 (s : State) (n : Nat) : (s.setRetry n).fr1 = s.fr1 := rfl
@[simp] theorem setRetry_stage (s : State) (n : Nat) : (s.setRetry n).stage = s.stage := rfl
@[simp] theorem setRetry_baudrate (s : State) (n : Nat) : (s.setRetry n).baudrate = s.baudrate := rfl
@[simp] theorem setRetry_held (s : State) (n : Nat) : (s.setRetry n).held = s.held := rfl
@[simp] theorem setRetry_inited (s : State) (n : Nat) : (s.setRetry n).inited = s.inited := rfl
@[simp] theorem setRetry_lu (s : State) (n : Nat) : (s.setRetry n).lu = s.lu := rfl
@[simp] theorem setRetry_extClken (s : State) (n : Nat) : (s.setRetry n).extClken = s.extClken := rfl
@[simp] theorem setRetry_extPinmux (s : State) (n : Nat) : (s.setRetry n).extPinmux = s.extPinmux := rfl
@[simp] theorem setRetry_divCnt (s : State) (n : Nat) : (s.setRetry n).divCnt = s.divCnt := rfl
@[simp] theorem setRetry_sclHalf (s : State) (n : Nat) : (s.setRetry n).sclHalf = s.sclHalf := rfl
@[simp] theorem setRetry_buf (s : State) (n : Nat) : (s.setRetry n).buf = s.buf := rfl
@[simp] theorem setRetry_trace (s : State) (n : Nat) : (s.setRetry n).trace = s.trace := rfl
@[simp] theorem setRetry_snap (s : State) (n : Nat) : (s.setRetry n).snap = s.snap := rfl
@[simp] theorem setRetry_rxVal (s : State) (n : Nat) : (s.setRetry n).rxVal = s.rxVal := rfl
@[simp] theorem setRetry_ret (s : State) (n : Nat) : (s.setRetry n).ret = s.ret := rfl
@[simp] theorem setRetry_act (s : State) (n : Nat) : (s.setRetry n).act = s.act := rfl
@[simp] theorem setRetry_agent (s : State) (n : Nat) : (s.setRetry n).agent = s.agent := rfl
@[simp] theorem setRetry_tick (s : State) (n : Nat) : (s.setRetry n).tick = s.tick := rfl
@[simp] theorem setRetry_host (s : State) (n : Nat) : (s.setRetry n).host = s.host := rfl
@[simp] theorem setRetry_hostOut (s : State) (n : Nat) : (s.setRetry n).hostOut = s.hostOut := rfl
@[simp] theorem setRetry_luPort (s : State) (n : Nat) : (s.setRetry n).luPort = s.luPort := rfl

@[simp] theorem setHeld_params (s : State) (b : Bool) : (s.setHeld b).params = s.params := rfl
@[simp] theorem setHeld_cmd (s : State) (b : Bool) : (s.setHeld b).cmd = s.cmd := rfl
@[simp] theorem setHeld_count (s : State) (b : Bool) : (s.setHeld b).count = s.count := rfl
@[simp] theorem setHeld_fail (s : State) (b : Bool) : (s.setHeld b).fail = s.fail := rfl
@[simp] theorem setHeld_op (s : State) (b : Bool) : (s.setHeld b).op = s.op := rfl
@[simp] theorem setHeld_hold (s : State) (b : Bool) : (s.setHeld b).hold = s.hold := rfl
@[simp] theorem setHeld_asize (s : State) (b : Bool) : (s.setHeld b).asize = s.asize := rfl
@[simp] theorem setHeld_dev (s : State) (b : Bool) : (s.setHeld b).dev = s.dev := rfl
@[simp] theorem setHeld_reg (s : State) (b : Bool) : (s.setHeld b).reg = s.reg := rfl
@[simp] theorem setHeld_arg (s : State) (b : Bool) : (s.setHeld b).arg = s.arg := rfl
@[simp] theorem setHeld_phase (s : State) (b : Bool) : (s.setHeld b).phase = s.phase := rfl
@[simp] theorem setHeld_idx (s : State) (b : Bool) : (s.setHeld b).idx = s.idx := rfl
@[simp] theorem setHeld_retry (s : State) (b : Bool) : (s.setHeld b).retry = s.retry := rfl
@[simp] theorem setHeld_fr0 (s : State) (b : Bool) : (s.setHeld b).fr0 = s.fr0 := rfl
@[simp] theorem setHeld_fr1 (s : State) (b : Bool) : (s.setHeld b).fr1 = s.fr1 := rfl
@[simp] theorem setHeld_stage (s : State) (b : Bool) : (s.setHeld b).stage = s.stage := rfl
@[simp] theorem setHeld_baudrate (s : State) (b : Bool) : (s.setHeld b).baudrate = s.baudrate := rfl
@[simp] theorem setHeld_held (s : State) (b : Bool) : (s.setHeld b).held = b := rfl
@[simp] theorem setHeld_inited (s : State) (b : Bool) : (s.setHeld b).inited = s.inited := rfl
@[simp] theorem setHeld_lu (s : State) (b : Bool) : (s.setHeld b).lu = s.lu := rfl
@[simp] theorem setHeld_extClken (s : State) (b : Bool) : (s.setHeld b).extClken = s.extClken := rfl
@[simp] theorem setHeld_extPinmux (s : State) (b : Bool) : (s.setHeld b).extPinmux = s.extPinmux := rfl
@[simp] theorem setHeld_divCnt (s : State) (b : Bool) : (s.setHeld b).divCnt = s.divCnt := rfl
@[simp] theorem setHeld_sclHalf (s : State) (b : Bool) : (s.setHeld b).sclHalf = s.sclHalf := rfl
@[simp] theorem setHeld_buf (s : State) (b : Bool) : (s.setHeld b).buf = s.buf := rfl
@[simp] theorem setHeld_trace (s : State) (b : Bool) : (s.setHeld b).trace = s.trace := rfl
@[simp] theorem setHeld_snap (s : State) (b : Bool) : (s.setHeld b).snap = s.snap := rfl
@[simp] theorem setHeld_rxVal (s : State) (b : Bool) : (s.setHeld b).rxVal = s.rxVal := rfl
@[simp] theorem setHeld_ret (s : State) (b : Bool) : (s.setHeld b).ret = s.ret := rfl
@[simp] theorem setHeld_act (s : State) (b : Bool) : (s.setHeld b).act = s.act := rfl
@[simp] theorem setHeld_agent (s : State) (b : Bool) : (s.setHeld b).agent = s.agent := rfl
@[simp] theorem setHeld_tick (s : State) (b : Bool) : (s.setHeld b).tick = s.tick := rfl
@[simp] theorem setHeld_host (s : State) (b : Bool) : (s.setHeld b).host = s.host := rfl
@[simp] theorem setHeld_hostOut (s : State) (b : Bool) : (s.setHeld b).hostOut = s.hostOut := rfl
@[simp] theorem setHeld_luPort (s : State) (b : Bool) : (s.setHeld b).luPort = s.luPort := rfl

@[simp] theorem setStage_params (s : State) (b : Bool) : (s.setStage b).params = s.params := rfl
@[simp] theorem setStage_cmd (s : State) (b : Bool) : (s.setStage b).cmd = s.cmd := rfl
@[simp] theorem setStage_count (s : State) (b : Bool) : (s.setStage b).count = s.count := rfl
@[simp] theorem setStage_fail (s : State) (b : Bool) : (s.setStage b).fail = s.fail := rfl
@[simp] theorem setStage_op (s : State) (b : Bool) : (s.setStage b).op = s.op := rfl
@[simp] theorem setStage_hold (s : State) (b : Bool) : (s.setStage b).hold = s.hold := rfl
@[simp] theorem setStage_asize (s : State) (b : Bool) : (s.setStage b).asize = s.asize := rfl
@[simp] theorem setStage_dev (s : State) (b : Bool) : (s.setStage b).dev = s.dev := rfl
@[simp] theorem setStage_reg (s : State) (b : Bool) : (s.setStage b).reg = s.reg := rfl
@[simp] theorem setStage_arg (s : State) (b : Bool) : (s.setStage b).arg = s.arg := rfl
@[simp] theorem setStage_phase (s : State) (b : Bool) : (s.setStage b).phase = s.phase := rfl
@[simp] theorem setStage_idx (s : State) (b : Bool) : (s.setStage b).idx = s.idx := rfl
@[simp] theorem setStage_retry (s : State) (b : Bool) : (s.setStage b).retry = s.retry := rfl
@[simp] theorem setStage_fr0 (s : State) (b : Bool) : (s.setStage b).fr0 = s.fr0 := rfl
@[simp] theorem setStage_fr1 (s : State) (b : Bool) : (s.setStage b).fr1 = s.fr1 := rfl
@[simp] theorem setStage_stage (s : State) (b : Bool) : (s.setStage b).stage = b := rfl
@[simp] theorem setStage_baudrate (s : State) (b : Bool) : (s.setStage b).baudrate = s.baudrate := rfl
@[simp] theorem setStage_held (s : State) (b : Bool) : (s.setStage b).held = s.held := rfl
@[simp] theorem setStage_inited (s : State) (b : Bool) : (s.setStage b).inited = s.inited := rfl
@[simp] theorem setStage_lu (s : State) (b : Bool) : (s.setStage b).lu = s.lu := rfl
@[simp] theorem setStage_extClken (s : State) (b : Bool) : (s.setStage b).extClken = s.extClken := rfl
@[simp] theorem setStage_extPinmux (s : State) (b : Bool) : (s.setStage b).extPinmux = s.extPinmux := rfl
@[simp] theorem setStage_divCnt (s : State) (b : Bool) : (s.setStage b).divCnt = s.divCnt := rfl
@[simp] theorem setStage_sclHalf (s : State) (b : Bool) : (s.setStage b).sclHalf = s.sclHalf := rfl
@[simp] theorem setStage_buf (s : State) (b : Bool) : (s.setStage b).buf = s.buf := rfl
@[simp] theorem setStage_trace (s : State) (b : Bool) : (s.setStage b).trace = s.trace := rfl
@[simp] theorem setStage_snap (s : State) (b : Bool) : (s.setStage b).snap = s.snap := rfl
@[simp] theorem setStage_rxVal (s : State) (b : Bool) : (s.setStage b).rxVal = s.rxVal := rfl
@[simp] theorem setStage_ret (s : State) (b : Bool) : (s.setStage b).ret = s.ret := rfl
@[simp] theorem setStage_act (s : State) (b : Bool) : (s.setStage b).act = s.act := rfl
@[simp] theorem setStage_agent (s : State) (b : Bool) : (s.setStage b).agent = s.agent := rfl
@[simp] theorem setStage_tick (s : State) (b : Bool) : (s.setStage b).tick = s.tick := rfl
@[simp] theorem setStage_host (s : State) (b : Bool) : (s.setStage b).host = s.host := rfl
@[simp] theorem setStage_hostOut (s : State) (b : Bool) : (s.setStage b).hostOut = s.hostOut := rfl
@[simp] theorem setStage_luPort (s : State) (b : Bool) : (s.setStage b).luPort = s.luPort := rfl

@[simp] theorem setFail_params (s : State) (f : Fail) : (s.setFail f).params = s.params := rfl
@[simp] theorem setFail_cmd (s : State) (f : Fail) : (s.setFail f).cmd = s.cmd := rfl
@[simp] theorem setFail_count (s : State) (f : Fail) : (s.setFail f).count = s.count := rfl
@[simp] theorem setFail_fail (s : State) (f : Fail) : (s.setFail f).fail = f := rfl
@[simp] theorem setFail_op (s : State) (f : Fail) : (s.setFail f).op = s.op := rfl
@[simp] theorem setFail_hold (s : State) (f : Fail) : (s.setFail f).hold = s.hold := rfl
@[simp] theorem setFail_asize (s : State) (f : Fail) : (s.setFail f).asize = s.asize := rfl
@[simp] theorem setFail_dev (s : State) (f : Fail) : (s.setFail f).dev = s.dev := rfl
@[simp] theorem setFail_reg (s : State) (f : Fail) : (s.setFail f).reg = s.reg := rfl
@[simp] theorem setFail_arg (s : State) (f : Fail) : (s.setFail f).arg = s.arg := rfl
@[simp] theorem setFail_phase (s : State) (f : Fail) : (s.setFail f).phase = s.phase := rfl
@[simp] theorem setFail_idx (s : State) (f : Fail) : (s.setFail f).idx = s.idx := rfl
@[simp] theorem setFail_retry (s : State) (f : Fail) : (s.setFail f).retry = s.retry := rfl
@[simp] theorem setFail_fr0 (s : State) (f : Fail) : (s.setFail f).fr0 = s.fr0 := rfl
@[simp] theorem setFail_fr1 (s : State) (f : Fail) : (s.setFail f).fr1 = s.fr1 := rfl
@[simp] theorem setFail_stage (s : State) (f : Fail) : (s.setFail f).stage = s.stage := rfl
@[simp] theorem setFail_baudrate (s : State) (f : Fail) : (s.setFail f).baudrate = s.baudrate := rfl
@[simp] theorem setFail_held (s : State) (f : Fail) : (s.setFail f).held = s.held := rfl
@[simp] theorem setFail_inited (s : State) (f : Fail) : (s.setFail f).inited = s.inited := rfl
@[simp] theorem setFail_lu (s : State) (f : Fail) : (s.setFail f).lu = s.lu := rfl
@[simp] theorem setFail_extClken (s : State) (f : Fail) : (s.setFail f).extClken = s.extClken := rfl
@[simp] theorem setFail_extPinmux (s : State) (f : Fail) : (s.setFail f).extPinmux = s.extPinmux := rfl
@[simp] theorem setFail_divCnt (s : State) (f : Fail) : (s.setFail f).divCnt = s.divCnt := rfl
@[simp] theorem setFail_sclHalf (s : State) (f : Fail) : (s.setFail f).sclHalf = s.sclHalf := rfl
@[simp] theorem setFail_buf (s : State) (f : Fail) : (s.setFail f).buf = s.buf := rfl
@[simp] theorem setFail_trace (s : State) (f : Fail) : (s.setFail f).trace = s.trace := rfl
@[simp] theorem setFail_snap (s : State) (f : Fail) : (s.setFail f).snap = s.snap := rfl
@[simp] theorem setFail_rxVal (s : State) (f : Fail) : (s.setFail f).rxVal = s.rxVal := rfl
@[simp] theorem setFail_ret (s : State) (f : Fail) : (s.setFail f).ret = s.ret := rfl
@[simp] theorem setFail_act (s : State) (f : Fail) : (s.setFail f).act = s.act := rfl
@[simp] theorem setFail_agent (s : State) (f : Fail) : (s.setFail f).agent = s.agent := rfl
@[simp] theorem setFail_tick (s : State) (f : Fail) : (s.setFail f).tick = s.tick := rfl
@[simp] theorem setFail_host (s : State) (f : Fail) : (s.setFail f).host = s.host := rfl
@[simp] theorem setFail_hostOut (s : State) (f : Fail) : (s.setFail f).hostOut = s.hostOut := rfl
@[simp] theorem setFail_luPort (s : State) (f : Fail) : (s.setFail f).luPort = s.luPort := rfl

@[simp] theorem setRet_params (s : State) (k : BitVec 17) : (s.setRet k).params = s.params := rfl
@[simp] theorem setRet_cmd (s : State) (k : BitVec 17) : (s.setRet k).cmd = s.cmd := rfl
@[simp] theorem setRet_count (s : State) (k : BitVec 17) : (s.setRet k).count = s.count := rfl
@[simp] theorem setRet_fail (s : State) (k : BitVec 17) : (s.setRet k).fail = s.fail := rfl
@[simp] theorem setRet_op (s : State) (k : BitVec 17) : (s.setRet k).op = s.op := rfl
@[simp] theorem setRet_hold (s : State) (k : BitVec 17) : (s.setRet k).hold = s.hold := rfl
@[simp] theorem setRet_asize (s : State) (k : BitVec 17) : (s.setRet k).asize = s.asize := rfl
@[simp] theorem setRet_dev (s : State) (k : BitVec 17) : (s.setRet k).dev = s.dev := rfl
@[simp] theorem setRet_reg (s : State) (k : BitVec 17) : (s.setRet k).reg = s.reg := rfl
@[simp] theorem setRet_arg (s : State) (k : BitVec 17) : (s.setRet k).arg = s.arg := rfl
@[simp] theorem setRet_phase (s : State) (k : BitVec 17) : (s.setRet k).phase = s.phase := rfl
@[simp] theorem setRet_idx (s : State) (k : BitVec 17) : (s.setRet k).idx = s.idx := rfl
@[simp] theorem setRet_retry (s : State) (k : BitVec 17) : (s.setRet k).retry = s.retry := rfl
@[simp] theorem setRet_fr0 (s : State) (k : BitVec 17) : (s.setRet k).fr0 = s.fr0 := rfl
@[simp] theorem setRet_fr1 (s : State) (k : BitVec 17) : (s.setRet k).fr1 = s.fr1 := rfl
@[simp] theorem setRet_stage (s : State) (k : BitVec 17) : (s.setRet k).stage = s.stage := rfl
@[simp] theorem setRet_baudrate (s : State) (k : BitVec 17) : (s.setRet k).baudrate = s.baudrate := rfl
@[simp] theorem setRet_held (s : State) (k : BitVec 17) : (s.setRet k).held = s.held := rfl
@[simp] theorem setRet_inited (s : State) (k : BitVec 17) : (s.setRet k).inited = s.inited := rfl
@[simp] theorem setRet_lu (s : State) (k : BitVec 17) : (s.setRet k).lu = s.lu := rfl
@[simp] theorem setRet_extClken (s : State) (k : BitVec 17) : (s.setRet k).extClken = s.extClken := rfl
@[simp] theorem setRet_extPinmux (s : State) (k : BitVec 17) : (s.setRet k).extPinmux = s.extPinmux := rfl
@[simp] theorem setRet_divCnt (s : State) (k : BitVec 17) : (s.setRet k).divCnt = s.divCnt := rfl
@[simp] theorem setRet_sclHalf (s : State) (k : BitVec 17) : (s.setRet k).sclHalf = s.sclHalf := rfl
@[simp] theorem setRet_buf (s : State) (k : BitVec 17) : (s.setRet k).buf = s.buf := rfl
@[simp] theorem setRet_trace (s : State) (k : BitVec 17) : (s.setRet k).trace = s.trace := rfl
@[simp] theorem setRet_snap (s : State) (k : BitVec 17) : (s.setRet k).snap = s.snap := rfl
@[simp] theorem setRet_rxVal (s : State) (k : BitVec 17) : (s.setRet k).rxVal = s.rxVal := rfl
@[simp] theorem setRet_ret (s : State) (k : BitVec 17) : (s.setRet k).ret = k := rfl
@[simp] theorem setRet_act (s : State) (k : BitVec 17) : (s.setRet k).act = s.act := rfl
@[simp] theorem setRet_agent (s : State) (k : BitVec 17) : (s.setRet k).agent = s.agent := rfl
@[simp] theorem setRet_tick (s : State) (k : BitVec 17) : (s.setRet k).tick = s.tick := rfl
@[simp] theorem setRet_host (s : State) (k : BitVec 17) : (s.setRet k).host = s.host := rfl
@[simp] theorem setRet_hostOut (s : State) (k : BitVec 17) : (s.setRet k).hostOut = s.hostOut := rfl
@[simp] theorem setRet_luPort (s : State) (k : BitVec 17) : (s.setRet k).luPort = s.luPort := rfl

@[simp] theorem setRxVal_params (s : State) (v : Byte) : (s.setRxVal v).params = s.params := rfl
@[simp] theorem setRxVal_cmd (s : State) (v : Byte) : (s.setRxVal v).cmd = s.cmd := rfl
@[simp] theorem setRxVal_count (s : State) (v : Byte) : (s.setRxVal v).count = s.count := rfl
@[simp] theorem setRxVal_fail (s : State) (v : Byte) : (s.setRxVal v).fail = s.fail := rfl
@[simp] theorem setRxVal_op (s : State) (v : Byte) : (s.setRxVal v).op = s.op := rfl
@[simp] theorem setRxVal_hold (s : State) (v : Byte) : (s.setRxVal v).hold = s.hold := rfl
@[simp] theorem setRxVal_asize (s : State) (v : Byte) : (s.setRxVal v).asize = s.asize := rfl
@[simp] theorem setRxVal_dev (s : State) (v : Byte) : (s.setRxVal v).dev = s.dev := rfl
@[simp] theorem setRxVal_reg (s : State) (v : Byte) : (s.setRxVal v).reg = s.reg := rfl
@[simp] theorem setRxVal_arg (s : State) (v : Byte) : (s.setRxVal v).arg = s.arg := rfl
@[simp] theorem setRxVal_phase (s : State) (v : Byte) : (s.setRxVal v).phase = s.phase := rfl
@[simp] theorem setRxVal_idx (s : State) (v : Byte) : (s.setRxVal v).idx = s.idx := rfl
@[simp] theorem setRxVal_retry (s : State) (v : Byte) : (s.setRxVal v).retry = s.retry := rfl
@[simp] theorem setRxVal_fr0 (s : State) (v : Byte) : (s.setRxVal v).fr0 = s.fr0 := rfl
@[simp] theorem setRxVal_fr1 (s : State) (v : Byte) : (s.setRxVal v).fr1 = s.fr1 := rfl
@[simp] theorem setRxVal_stage (s : State) (v : Byte) : (s.setRxVal v).stage = s.stage := rfl
@[simp] theorem setRxVal_baudrate (s : State) (v : Byte) : (s.setRxVal v).baudrate = s.baudrate := rfl
@[simp] theorem setRxVal_held (s : State) (v : Byte) : (s.setRxVal v).held = s.held := rfl
@[simp] theorem setRxVal_inited (s : State) (v : Byte) : (s.setRxVal v).inited = s.inited := rfl
@[simp] theorem setRxVal_lu (s : State) (v : Byte) : (s.setRxVal v).lu = s.lu := rfl
@[simp] theorem setRxVal_extClken (s : State) (v : Byte) : (s.setRxVal v).extClken = s.extClken := rfl
@[simp] theorem setRxVal_extPinmux (s : State) (v : Byte) : (s.setRxVal v).extPinmux = s.extPinmux := rfl
@[simp] theorem setRxVal_divCnt (s : State) (v : Byte) : (s.setRxVal v).divCnt = s.divCnt := rfl
@[simp] theorem setRxVal_sclHalf (s : State) (v : Byte) : (s.setRxVal v).sclHalf = s.sclHalf := rfl
@[simp] theorem setRxVal_buf (s : State) (v : Byte) : (s.setRxVal v).buf = s.buf := rfl
@[simp] theorem setRxVal_trace (s : State) (v : Byte) : (s.setRxVal v).trace = s.trace := rfl
@[simp] theorem setRxVal_snap (s : State) (v : Byte) : (s.setRxVal v).snap = s.snap := rfl
@[simp] theorem setRxVal_rxVal (s : State) (v : Byte) : (s.setRxVal v).rxVal = v := rfl
@[simp] theorem setRxVal_ret (s : State) (v : Byte) : (s.setRxVal v).ret = s.ret := rfl
@[simp] theorem setRxVal_act (s : State) (v : Byte) : (s.setRxVal v).act = s.act := rfl
@[simp] theorem setRxVal_agent (s : State) (v : Byte) : (s.setRxVal v).agent = s.agent := rfl
@[simp] theorem setRxVal_tick (s : State) (v : Byte) : (s.setRxVal v).tick = s.tick := rfl
@[simp] theorem setRxVal_host (s : State) (v : Byte) : (s.setRxVal v).host = s.host := rfl
@[simp] theorem setRxVal_hostOut (s : State) (v : Byte) : (s.setRxVal v).hostOut = s.hostOut := rfl
@[simp] theorem setRxVal_luPort (s : State) (v : Byte) : (s.setRxVal v).luPort = s.luPort := rfl

end Sys2Proof.Machine
end

