-- ==== Sys2Proof/Laws/Agent.lean ====
section
/-! SUPPORT. What the environment's turn can change: the line unit, the clock divider, and the model's own script and
counter. -/

namespace Sys2Proof.Machine

/-- A property of states that every single move keeps is kept by a list of moves. -/
theorem applyMoves_induct {P : State → Prop} {ms : List EnvMove}
    (hP : ∀ m ∈ ms, ∀ s, P s → P (m.apply s)) {s : State} (hs : P s) : P (applyMoves ms s) := by
  induction ms generalizing s with
  | nil => exact hs
  | cons m ms ih =>
    exact ih (fun m' hm' => hP m' (List.mem_cons_of_mem _ hm')) (hP m List.mem_cons_self s hs)

@[simp] theorem applyMoves_nil (s : State) : applyMoves [] s = s := rfl

@[simp] theorem applyMoves_cons (m : EnvMove) (ms : List EnvMove) (s : State) :
    applyMoves (m :: ms) s = applyMoves ms (m.apply s) := rfl

/-- A property that the moves of the coming turn keep holds after the turn, if it does not look at the script and the
counter. -/
theorem envTurn_induct {P : State → Prop} {s : State}
    (hP : ∀ m ∈ s.slot, ∀ u, P u → P (m.apply u))
    (hq : ∀ u a k, P u → P { u with agent := a, tick := k }) (hs : P s) : P (envTurn s) := by
  unfold envTurn
  split
  · exact hq _ _ _ (applyMoves_induct hP hs)
  · exact hq _ _ _ hs

/-- A move changes the line unit as the bus agent does, or counts the divider. -/
theorem EnvMove.apply_cases (m : EnvMove) (s : State) :
    (∃ b, m = .bus b ∧ m.apply s = s.setLu (b.apply s.lu)) ∨
      (m = .sysClock ∧ ∃ c h, m.apply s = { s with divCnt := c, sclHalf := h }) := by
  cases m with
  | bus b => exact .inl ⟨b, rfl, rfl⟩
  | sysClock =>
    refine .inr ⟨rfl, ?_⟩
    show ∃ c h, divTick s = _
    unfold divTick
    split
    · split
      · exact ⟨_, _, rfl⟩
      · exact ⟨_, s.sclHalf, rfl⟩
    · exact ⟨s.divCnt, s.sclHalf, rfl⟩

/-- The turn in one line: only the line unit, the divider, the script and the counter can differ. -/
theorem envTurn_eq (s : State) : ∃ u c h,
    envTurn s = { s with lu := u, divCnt := c, sclHalf := h, agent := s.agent.tail, tick := s.tick + 1 } := by
  have key : ∀ (ms : List EnvMove) (s : State), ∃ u c h,
      applyMoves ms s = { s with lu := u, divCnt := c, sclHalf := h } := by
    intro ms
    induction ms with
    | nil => exact fun s => ⟨s.lu, s.divCnt, s.sclHalf, rfl⟩
    | cons m ms ih =>
      intro s
      obtain ⟨u, c, h, e⟩ := ih (m.apply s)
      refine ⟨u, c, h, ?_⟩
      rw [applyMoves_cons, e]
      obtain ⟨b, -, e'⟩ | ⟨-, c', h', e'⟩ := m.apply_cases s
      · rw [e']; rfl
      · rw [e']
  unfold envTurn
  split
  · obtain ⟨u, c, h, e⟩ := key s.slot s
    exact ⟨u, c, h, by rw [e]⟩
  · exact ⟨s.lu, s.divCnt, s.sclHalf, rfl⟩

/-- The bus agent never changes ENABLE, MODE, the divisor, LU_CMD or LU_ADDR. -/
theorem BusMove.apply_keeps (m : BusMove) (u : LineUnit) :
    (m.apply u).enable = u.enable ∧ (m.apply u).mode = u.mode ∧ (m.apply u).div = u.div
      ∧ (m.apply u).cmd = u.cmd ∧ (m.apply u).ackAct = u.ackAct ∧ (m.apply u).addr = u.addr := by
  unfold BusMove.apply
  split
  · cases m with
    | addrRead k => cases k <;> simp [BusMove.effect]
    | _ => simp [BusMove.effect]
  · simp

@[simp] theorem envTurn_params (s : State) : (envTurn s).params = s.params := by
  obtain ⟨_, _, _, h⟩ := envTurn_eq s; rw [h]

@[simp] theorem envTurn_cmd (s : State) : (envTurn s).cmd = s.cmd := by
  obtain ⟨_, _, _, h⟩ := envTurn_eq s; rw [h]

@[simp] theorem envTurn_count (s : State) : (envTurn s).count = s.count := by
  obtain ⟨_, _, _, h⟩ := envTurn_eq s; rw [h]

@[simp] theorem envTurn_fail (s : State) : (envTurn s).fail = s.fail := by
  obtain ⟨_, _, _, h⟩ := envTurn_eq s; rw [h]

@[simp] theorem envTurn_op (s : State) : (envTurn s).op = s.op := by
  obtain ⟨_, _, _, h⟩ := envTurn_eq s; rw [h]

@[simp] theorem envTurn_hold (s : State) : (envTurn s).hold = s.hold := by
  obtain ⟨_, _, _, h⟩ := envTurn_eq s; rw [h]

@[simp] theorem envTurn_asize (s : State) : (envTurn s).asize = s.asize := by
  obtain ⟨_, _, _, h⟩ := envTurn_eq s; rw [h]

@[simp] theorem envTurn_dev (s : State) : (envTurn s).dev = s.dev := by
  obtain ⟨_, _, _, h⟩ := envTurn_eq s; rw [h]

@[simp] theorem envTurn_reg (s : State) : (envTurn s).reg = s.reg := by
  obtain ⟨_, _, _, h⟩ := envTurn_eq s; rw [h]

@[simp] theorem envTurn_arg (s : State) : (envTurn s).arg = s.arg := by
  obtain ⟨_, _, _, h⟩ := envTurn_eq s; rw [h]

@[simp] theorem envTurn_phase (s : State) : (envTurn s).phase = s.phase := by
  obtain ⟨_, _, _, h⟩ := envTurn_eq s; rw [h]

@[simp] theorem envTurn_idx (s : State) : (envTurn s).idx = s.idx := by
  obtain ⟨_, _, _, h⟩ := envTurn_eq s; rw [h]

@[simp] theorem envTurn_retry (s : State) : (envTurn s).retry = s.retry := by
  obtain ⟨_, _, _, h⟩ := envTurn_eq s; rw [h]

@[simp] theorem envTurn_fr0 (s : State) : (envTurn s).fr0 = s.fr0 := by
  obtain ⟨_, _, _, h⟩ := envTurn_eq s; rw [h]

@[simp] theorem envTurn_fr1 (s : State) : (envTurn s).fr1 = s.fr1 := by
  obtain ⟨_, _, _, h⟩ := envTurn_eq s; rw [h]

@[simp] theorem envTurn_stage (s : State) : (envTurn s).stage = s.stage := by
  obtain ⟨_, _, _, h⟩ := envTurn_eq s; rw [h]

@[simp] theorem envTurn_baudrate (s : State) : (envTurn s).baudrate = s.baudrate := by
  obtain ⟨_, _, _, h⟩ := envTurn_eq s; rw [h]

@[simp] theorem envTurn_held (s : State) : (envTurn s).held = s.held := by
  obtain ⟨_, _, _, h⟩ := envTurn_eq s; rw [h]

@[simp] theorem envTurn_inited (s : State) : (envTurn s).inited = s.inited := by
  obtain ⟨_, _, _, h⟩ := envTurn_eq s; rw [h]

@[simp] theorem envTurn_extClken (s : State) : (envTurn s).extClken = s.extClken := by
  obtain ⟨_, _, _, h⟩ := envTurn_eq s; rw [h]

@[simp] theorem envTurn_extPinmux (s : State) : (envTurn s).extPinmux = s.extPinmux := by
  obtain ⟨_, _, _, h⟩ := envTurn_eq s; rw [h]

@[simp] theorem envTurn_buf (s : State) : (envTurn s).buf = s.buf := by
  obtain ⟨_, _, _, h⟩ := envTurn_eq s; rw [h]

@[simp] theorem envTurn_trace (s : State) : (envTurn s).trace = s.trace := by
  obtain ⟨_, _, _, h⟩ := envTurn_eq s; rw [h]

@[simp] theorem envTurn_snap (s : State) : (envTurn s).snap = s.snap := by
  obtain ⟨_, _, _, h⟩ := envTurn_eq s; rw [h]

@[simp] theorem envTurn_rxVal (s : State) : (envTurn s).rxVal = s.rxVal := by
  obtain ⟨_, _, _, h⟩ := envTurn_eq s; rw [h]

@[simp] theorem envTurn_ret (s : State) : (envTurn s).ret = s.ret := by
  obtain ⟨_, _, _, h⟩ := envTurn_eq s; rw [h]

@[simp] theorem envTurn_act (s : State) : (envTurn s).act = s.act := by
  obtain ⟨_, _, _, h⟩ := envTurn_eq s; rw [h]

@[simp] theorem envTurn_host (s : State) : (envTurn s).host = s.host := by
  obtain ⟨_, _, _, h⟩ := envTurn_eq s; rw [h]

@[simp] theorem envTurn_hostOut (s : State) : (envTurn s).hostOut = s.hostOut := by
  obtain ⟨_, _, _, h⟩ := envTurn_eq s; rw [h]

@[simp] theorem envTurn_luPort (s : State) : (envTurn s).luPort = s.luPort := by
  obtain ⟨_, _, _, h⟩ := envTurn_eq s; rw [h]

/-- A turn whose script slot is empty changes only the script and the counter. -/
theorem envTurn_silent {s : State} {rest : List (List EnvMove)} (h : s.agent = [] :: rest) :
    envTurn s = { s with agent := rest, tick := s.tick + 1 } := by
  unfold envTurn
  split <;> simp [State.slot, h]

end Sys2Proof.Machine
end

