-- ==== Sys2Proof/Laws/Decode.lean ====
section
/-! SUPPORT. The fields of a descriptor that `cdWord` builds, and what a row of the table says of them. -/

namespace Sys2Proof

@[simp] theorem cdOp_cdWord (op : BitVec 4) (hold : Bool) (asize : BitVec 2) (dev : BitVec 7) (reg : BitVec 16)
    (arg : BitVec 32) : cdOp (cdWord op hold asize dev reg arg) = op := by
  ext i hi; simp [cdOp, cdWord, hi]; interval_cases i <;> simp

@[simp] theorem cdHold_cdWord (op : BitVec 4) (hold : Bool) (asize : BitVec 2) (dev : BitVec 7) (reg : BitVec 16)
    (arg : BitVec 32) : cdHold (cdWord op hold asize dev reg arg) = hold := by
  simp [cdHold, cdWord]

@[simp] theorem cdAsize_cdWord (op : BitVec 4) (hold : Bool) (asize : BitVec 2) (dev : BitVec 7) (reg : BitVec 16)
    (arg : BitVec 32) : cdAsize (cdWord op hold asize dev reg arg) = asize := by
  ext i hi; simp [cdAsize, cdWord, hi]; interval_cases i <;> simp

@[simp] theorem cdDev_cdWord (op : BitVec 4) (hold : Bool) (asize : BitVec 2) (dev : BitVec 7) (reg : BitVec 16)
    (arg : BitVec 32) : cdDev (cdWord op hold asize dev reg arg) = dev := by
  ext i hi; simp [cdDev, cdWord, hi]; interval_cases i <;> simp

@[simp] theorem cdReg_cdWord (op : BitVec 4) (hold : Bool) (asize : BitVec 2) (dev : BitVec 7) (reg : BitVec 16)
    (arg : BitVec 32) : cdReg (cdWord op hold asize dev reg arg) = reg := by
  ext i hi; simp [cdReg, cdWord, hi]; interval_cases i <;> simp

@[simp] theorem cdArg_cdWord (op : BitVec 4) (hold : Bool) (asize : BitVec 2) (dev : BitVec 7) (reg : BitVec 16)
    (arg : BitVec 32) : cdArg (cdWord op hold asize dev reg arg) = arg := by
  ext i hi; simp [cdArg, cdWord, hi]; interval_cases i <;> simp

/-- LEN is the low half of ARG. -/
theorem cdLen_eq (d : BitVec 64) : cdLen d = (cdArg d).setWidth 16 := by
  ext i hi
  have h : i < 32 := by omega
  simp [cdLen, cdArg, h]

/-- A word that a row admits has that row's command code. -/
theorem admits_op {r : CdRow} {d : BitVec 64} (hr : r ∈ CdRow.all) (h : r.admits d = true) :
    cdOp d = r.bits.extractLsb' 0 4 := by
  simp only [CdRow.admits, beq_iff_eq] at h
  rw [← h]
  simp only [CdRow.all, List.mem_cons, List.not_mem_nil, or_false] at hr
  rcases hr with rfl | rfl | rfl | rfl | rfl <;>
    (ext i hi
     simp [cdOp, CdRow.init, CdRow.write, CdRow.read, CdRow.writeRegs, CdRow.readRegs]
     interval_cases i <;> simp)

theorem admits_init (arg : BitVec 32) : CdRow.init.admits (cdWord 1#4 false 0#2 0#7 0#16 arg) = true := by
  simp only [CdRow.admits, beq_iff_eq, CdRow.init, cdWord]
  ext i hi; interval_cases i <;> simp

theorem admits_write (dev : BitVec 7) (hold : Bool) (len : BitVec 16) :
    CdRow.write.admits (cdWord 2#4 hold 0#2 dev 0#16 (len.setWidth 32)) = true := by
  simp only [CdRow.admits, beq_iff_eq, CdRow.write, cdWord]
  ext i hi; interval_cases i <;> simp

theorem admits_read (dev : BitVec 7) (len : BitVec 16) :
    CdRow.read.admits (cdWord 3#4 false 0#2 dev 0#16 (len.setWidth 32)) = true := by
  simp only [CdRow.admits, beq_iff_eq, CdRow.read, cdWord]
  ext i hi; interval_cases i <;> simp

theorem admits_writeRegs (dev : BitVec 7) (hold : Bool) (asize : BitVec 2) (reg : BitVec 16) (len : BitVec 16) :
    CdRow.writeRegs.admits (cdWord 4#4 hold asize dev reg (len.setWidth 32)) = true := by
  simp only [CdRow.admits, beq_iff_eq, CdRow.writeRegs, cdWord]
  ext i hi; interval_cases i <;> simp

theorem admits_readRegs (dev : BitVec 7) (asize : BitVec 2) (reg : BitVec 16) (len : BitVec 16) :
    CdRow.readRegs.admits (cdWord 5#4 false asize dev reg (len.setWidth 32)) = true := by
  simp only [CdRow.admits, beq_iff_eq, CdRow.readRegs, cdWord]
  ext i hi; interval_cases i <;> simp

end Sys2Proof
end

