-- ==== Sys2Proof/Laws/Ops.lean ====
section
/-! SUPPORT. What each shared operation can answer: the guards, sequencing, BUF accesses, launching. -/

namespace Sys2Proof.Machine

@[simp] theorem andThen_next (s : State) (k : State → Result) : andThen (.next s) k = k s := rfl

@[simp] theorem andThen_fault (f : Fault) (k : State → Result) : andThen (.fault f) k = .fault f := rfl

@[simp] theorem andThen_refused (e : Refusal) (k : State → Result) : andThen (.refused e) k = .refused e := rfl

/-- Two results in sequence answer a next state exactly when both do. -/
theorem andThen_eq_next {r : Result} {k : State → Result} {t : State} :
    andThen r k = .next t ↔ ∃ u, r = .next u ∧ k u = .next t := by
  cases r <;> simp

theorem whenClocked_eq_next {s t : State} {r : Result} :
    whenClocked s r = .next t ↔ s.extClken = true ∧ r = .next t := by
  unfold whenClocked; split <;> simp_all

theorem whenEnabled_eq_next {s t : State} {r : Result} :
    whenEnabled s r = .next t ↔ s.extClken = true ∧ s.lu.enable = true ∧ r = .next t := by
  simp only [whenEnabled, whenClocked_eq_next]
  refine and_congr_right fun _ => ?_
  split <;> simp_all

theorem whenDisabled_eq_next {s t : State} {r : Result} :
    whenDisabled s r = .next t ↔ s.extClken = true ∧ s.lu.enable = false ∧ r = .next t := by
  simp only [whenDisabled, whenClocked_eq_next]
  refine and_congr_right fun _ => ?_
  split <;> simp_all

theorem whenReady_eq_next {s t : State} {len : BitVec 16} {r : Result} :
    whenReady s len r = .next t ↔
      s.phase = .idle ∧ s.inited = true ∧ lenOk s.params len = true ∧ r = .next t := by
  unfold whenReady
  split
  · simp_all
  · split
    · simp_all
    · split <;> simp_all

theorem readBuf_eq_ok {s : State} {i : Nat} {v : Byte} :
    readBuf s i = .ok v ↔ i < s.params.bufSize ∧ s.bufByte i = v := by
  unfold readBuf; split <;> simp_all

theorem writeBuf_eq_next {s t : State} {i : Nat} {v : Byte} :
    writeBuf s i v = .next t ↔ i < s.params.bufSize ∧ s.setBuf (Memory.put s.buf i v) = t := by
  unfold writeBuf; split <;> simp_all

/-- What follows the end of a phase procedure. -/
theorem afterPhase_cases (s : State) :
    (s.op = opReadRegs ∧ s.stage = false ∧ afterPhase s = (s.setStage true).setPhase .start) ∨
    (¬(s.op = opReadRegs ∧ s.stage = false) ∧ afterPhase s = s.setPhase .done) := by
  unfold afterPhase
  split
  · next h =>
    simp only [Bool.and_eq_true, beq_iff_eq, Bool.not_eq_true'] at h
    exact .inl ⟨h.1, h.2, rfl⟩
  · next h =>
    simp only [Bool.and_eq_true, beq_iff_eq, Bool.not_eq_true'] at h
    exact .inr ⟨h, rfl⟩

/-- The framer writes FR0 and FR1 and nothing else. -/
theorem writeFrame_cases (s : State) :
    writeFrame s = s ∨ ∃ a b, writeFrame s = { s with fr0 := a, fr1 := b } := by
  unfold writeFrame
  split
  · exact .inr ⟨_, _, rfl⟩
  · exact .inr ⟨_, s.fr1, rfl⟩
  · exact .inl rfl

@[simp] theorem len_launch (s : State) (op : BitVec 4) (hold : Bool) (asize : BitVec 2) (dev : BitVec 7)
    (reg : BitVec 16) (n : BitVec 16) (p : Phase) : (launch s op hold asize dev reg n p).len = n.toNat := by
  simp only [launch, clearResult, latch, State.len]
  congr 1
  ext i hi
  have h : i < 32 := by omega
  simp [h, BitVec.getLsbD_eq_getElem hi]

/-! ### What the derived operands read of an updated state -/

@[simp] theorem emit_len (s : State) (e : Event) : (s.emit e).len = s.len := rfl
@[simp] theorem emit_isRead (s : State) (e : Event) : (s.emit e).isRead = s.isRead := rfl
@[simp] theorem emit_isFramed (s : State) (e : Event) : (s.emit e).isFramed = s.isFramed := rfl
@[simp] theorem emit_holds (s : State) (e : Event) : (s.emit e).holds = s.holds := rfl
@[simp] theorem emit_frameLen (s : State) (e : Event) : (s.emit e).frameLen = s.frameLen := rfl
@[simp] theorem emit_streamLen (s : State) (e : Event) : (s.emit e).streamLen = s.streamLen := rfl

@[simp] theorem emit_bufByte (s : State) (e : Event) (j : Nat) : (s.emit e).bufByte j = s.bufByte j := rfl

@[simp] theorem setLu_len (s : State) (u : LineUnit) : (s.setLu u).len = s.len := rfl
@[simp] theorem setLu_isRead (s : State) (u : LineUnit) : (s.setLu u).isRead = s.isRead := rfl
@[simp] theorem setLu_isFramed (s : State) (u : LineUnit) : (s.setLu u).isFramed = s.isFramed := rfl
@[simp] theorem setLu_holds (s : State) (u : LineUnit) : (s.setLu u).holds = s.holds := rfl
@[simp] theorem setLu_frameLen (s : State) (u : LineUnit) : (s.setLu u).frameLen = s.frameLen := rfl
@[simp] theorem setLu_streamLen (s : State) (u : LineUnit) : (s.setLu u).streamLen = s.streamLen := rfl

@[simp] theorem setLu_bufByte (s : State) (u : LineUnit) (j : Nat) : (s.setLu u).bufByte j = s.bufByte j := rfl

@[simp] theorem setPhase_len (s : State) (p : Phase) : (s.setPhase p).len = s.len := rfl
@[simp] theorem setPhase_isRead (s : State) (p : Phase) : (s.setPhase p).isRead = s.isRead := rfl
@[simp] theorem setPhase_isFramed (s : State) (p : Phase) : (s.setPhase p).isFramed = s.isFramed := rfl
@[simp] theorem setPhase_holds (s : State) (p : Phase) : (s.setPhase p).holds = s.holds := rfl
@[simp] theorem setPhase_frameLen (s : State) (p : Phase) : (s.setPhase p).frameLen = s.frameLen := rfl
@[simp] theorem setPhase_streamLen (s : State) (p : Phase) : (s.setPhase p).streamLen = s.streamLen := rfl

@[simp] theorem setPhase_bufByte (s : State) (p : Phase) (j : Nat) : (s.setPhase p).bufByte j = s.bufByte j := rfl

@[simp] theorem setIdx_len (s : State) (i : BitVec 17) : (s.setIdx i).len = s.len := rfl
@[simp] theorem setIdx_isRead (s : State) (i : BitVec 17) : (s.setIdx i).isRead = s.isRead := rfl
@[simp] theorem setIdx_isFramed (s : State) (i : BitVec 17) : (s.setIdx i).isFramed = s.isFramed := rfl
@[simp] theorem setIdx_holds (s : State) (i : BitVec 17) : (s.setIdx i).holds = s.holds := rfl
@[simp] theorem setIdx_frameLen (s : State) (i : BitVec 17) : (s.setIdx i).frameLen = s.frameLen := rfl
@[simp] theorem setIdx_streamLen (s : State) (i : BitVec 17) : (s.setIdx i).streamLen = s.streamLen := rfl

@[simp] theorem setIdx_bufByte (s : State) (i : BitVec 17) (j : Nat) : (s.setIdx i).bufByte j = s.bufByte j := rfl

@[simp] theorem setSnap_len (s : State) (p : Snapshot) : (s.setSnap p).len = s.len := rfl
@[simp] theorem setSnap_isRead (s : State) (p : Snapshot) : (s.setSnap p).isRead = s.isRead := rfl
@[simp] theorem setSnap_isFramed (s : State) (p : Snapshot) : (s.setSnap p).isFramed = s.isFramed := rfl
@[simp] theorem setSnap_holds (s : State) (p : Snapshot) : (s.setSnap p).holds = s.holds := rfl
@[simp] theorem setSnap_frameLen (s : State) (p : Snapshot) : (s.setSnap p).frameLen = s.frameLen := rfl
@[simp] theorem setSnap_streamLen (s : State) (p : Snapshot) : (s.setSnap p).streamLen = s.streamLen := rfl

@[simp] theorem setSnap_bufByte (s : State) (p : Snapshot) (j : Nat) : (s.setSnap p).bufByte j = s.bufByte j := rfl

@[simp] theorem setAct_len (s : State) (b : Bool) : (s.setAct b).len = s.len := rfl
@[simp] theorem setAct_isRead (s : State) (b : Bool) : (s.setAct b).isRead = s.isRead := rfl
@[simp] theorem setAct_isFramed (s : State) (b : Bool) : (s.setAct b).isFramed = s.isFramed := rfl
@[simp] theorem setAct_holds (s : State) (b : Bool) : (s.setAct b).holds = s.holds := rfl
@[simp] theorem setAct_frameLen (s : State) (b : Bool) : (s.setAct b).frameLen = s.frameLen := rfl
@[simp] theorem setAct_streamLen (s : State) (b : Bool) : (s.setAct b).streamLen = s.streamLen := rfl

@[simp] theorem setAct_bufByte (s : State) (b : Bool) (j : Nat) : (s.setAct b).bufByte j = s.bufByte j := rfl

@[simp] theorem setRetry_len (s : State) (n : Nat) : (s.setRetry n).len = s.len := rfl
@[simp] theorem setRetry_isRead (s : State) (n : Nat) : (s.setRetry n).isRead = s.isRead := rfl
@[simp] theorem setRetry_isFramed (s : State) (n : Nat) : (s.setRetry n).isFramed = s.isFramed := rfl
@[simp] theorem setRetry_holds (s : State) (n : Nat) : (s.setRetry n).holds = s.holds := rfl
@[simp] theorem setRetry_frameLen (s : State) (n : Nat) : (s.setRetry n).frameLen = s.frameLen := rfl
@[simp] theorem setRetry_streamLen (s : State) (n : Nat) : (s.setRetry n).streamLen = s.streamLen := rfl

@[simp] theorem setRetry_bufByte (s : State) (n : Nat) (j : Nat) : (s.setRetry n).bufByte j = s.bufByte j := rfl

@[simp] theorem setBuf_len (s : State) (m : List Host.Cell) : (s.setBuf m).len = s.len := rfl
@[simp] theorem setBuf_isRead (s : State) (m : List Host.Cell) : (s.setBuf m).isRead = s.isRead := rfl
@[simp] theorem setBuf_isFramed (s : State) (m : List Host.Cell) : (s.setBuf m).isFramed = s.isFramed := rfl
@[simp] theorem setBuf_holds (s : State) (m : List Host.Cell) : (s.setBuf m).holds = s.holds := rfl
@[simp] theorem setBuf_frameLen (s : State) (m : List Host.Cell) : (s.setBuf m).frameLen = s.frameLen := rfl
@[simp] theorem setBuf_streamLen (s : State) (m : List Host.Cell) : (s.setBuf m).streamLen = s.streamLen := rfl

@[simp] theorem setHeld_len (s : State) (b : Bool) : (s.setHeld b).len = s.len := rfl
@[simp] theorem setHeld_isRead (s : State) (b : Bool) : (s.setHeld b).isRead = s.isRead := rfl
@[simp] theorem setHeld_isFramed (s : State) (b : Bool) : (s.setHeld b).isFramed = s.isFramed := rfl
@[simp] theorem setHeld_holds (s : State) (b : Bool) : (s.setHeld b).holds = s.holds := rfl
@[simp] theorem setHeld_frameLen (s : State) (b : Bool) : (s.setHeld b).frameLen = s.frameLen := rfl
@[simp] theorem setHeld_streamLen (s : State) (b : Bool) : (s.setHeld b).streamLen = s.streamLen := rfl

@[simp] theorem setHeld_bufByte (s : State) (b : Bool) (j : Nat) : (s.setHeld b).bufByte j = s.bufByte j := rfl

@[simp] theorem setStage_len (s : State) (b : Bool) : (s.setStage b).len = s.len := rfl
@[simp] theorem setStage_isFramed (s : State) (b : Bool) : (s.setStage b).isFramed = s.isFramed := rfl
@[simp] theorem setStage_holds (s : State) (b : Bool) : (s.setStage b).holds = s.holds := rfl
@[simp] theorem setStage_frameLen (s : State) (b : Bool) : (s.setStage b).frameLen = s.frameLen := rfl
@[simp] theorem setStage_streamLen (s : State) (b : Bool) : (s.setStage b).streamLen = s.streamLen := rfl

@[simp] theorem setStage_bufByte (s : State) (b : Bool) (j : Nat) : (s.setStage b).bufByte j = s.bufByte j := rfl

@[simp] theorem setFail_len (s : State) (f : Fail) : (s.setFail f).len = s.len := rfl
@[simp] theorem setFail_isRead (s : State) (f : Fail) : (s.setFail f).isRead = s.isRead := rfl
@[simp] theorem setFail_isFramed (s : State) (f : Fail) : (s.setFail f).isFramed = s.isFramed := rfl
@[simp] theorem setFail_holds (s : State) (f : Fail) : (s.setFail f).holds = s.holds := rfl
@[simp] theorem setFail_frameLen (s : State) (f : Fail) : (s.setFail f).frameLen = s.frameLen := rfl
@[simp] theorem setFail_streamLen (s : State) (f : Fail) : (s.setFail f).streamLen = s.streamLen := rfl

@[simp] theorem setFail_bufByte (s : State) (f : Fail) (j : Nat) : (s.setFail f).bufByte j = s.bufByte j := rfl

@[simp] theorem setRet_len (s : State) (k : BitVec 17) : (s.setRet k).len = s.len := rfl
@[simp] theorem setRet_isRead (s : State) (k : BitVec 17) : (s.setRet k).isRead = s.isRead := rfl
@[simp] theorem setRet_isFramed (s : State) (k : BitVec 17) : (s.setRet k).isFramed = s.isFramed := rfl
@[simp] theorem setRet_holds (s : State) (k : BitVec 17) : (s.setRet k).holds = s.holds := rfl
@[simp] theorem setRet_frameLen (s : State) (k : BitVec 17) : (s.setRet k).frameLen = s.frameLen := rfl
@[simp] theorem setRet_streamLen (s : State) (k : BitVec 17) : (s.setRet k).streamLen = s.streamLen := rfl

@[simp] theorem setRet_bufByte (s : State) (k : BitVec 17) (j : Nat) : (s.setRet k).bufByte j = s.bufByte j := rfl

@[simp] theorem setRxVal_len (s : State) (v : Byte) : (s.setRxVal v).len = s.len := rfl
@[simp] theorem setRxVal_isRead (s : State) (v : Byte) : (s.setRxVal v).isRead = s.isRead := rfl
@[simp] theorem setRxVal_isFramed (s : State) (v : Byte) : (s.setRxVal v).isFramed = s.isFramed := rfl
@[simp] theorem setRxVal_holds (s : State) (v : Byte) : (s.setRxVal v).holds = s.holds := rfl
@[simp] theorem setRxVal_frameLen (s : State) (v : Byte) : (s.setRxVal v).frameLen = s.frameLen := rfl
@[simp] theorem setRxVal_streamLen (s : State) (v : Byte) : (s.setRxVal v).streamLen = s.streamLen := rfl

@[simp] theorem setRxVal_bufByte (s : State) (v : Byte) (j : Nat) : (s.setRxVal v).bufByte j = s.bufByte j := rfl

end Sys2Proof.Machine
end

