-- ==== Sys2Proof/Laws/Exec.lean ====
section
/-! SUPPORT. What each instruction can have done when it answers a next state: one inversion lemma an instruction, and
one for all line-unit operations together. -/

namespace Sys2Proof.Machine

/-- A line-unit operation can change the line unit, HELD, the two external bits, TRACE, and the value returned to the
sequencer; nothing else. -/
theorem exec_lu_shape {i : Instr} {s t : State} (hi : i.isCommand = false) (h : exec i s = .next t) :
    ∃ u held ck pm tr sn rv, t = { s with
      lu := u, held := held, extClken := ck, extPinmux := pm, trace := tr, snap := sn, rxVal := rv } := by
  cases i with
  | init => cases hi
  | write => cases hi
  | read => cases hi
  | writeRegs => cases hi
  | readRegs => cases hi
  | clken => cases h; exact ⟨s.lu, s.held, true, s.extPinmux, _, s.snap, s.rxVal, rfl⟩
  | pinmux => cases h; exact ⟨s.lu, s.held, s.extClken, true, _, s.snap, s.rxVal, rfl⟩
  | swrst =>
    obtain ⟨-, h⟩ := whenClocked_eq_next.mp h; cases h
    exact ⟨_, false, s.extClken, s.extPinmux, _, s.snap, s.rxVal, rfl⟩
  | setmode =>
    obtain ⟨-, -, h⟩ := whenDisabled_eq_next.mp h; cases h
    exact ⟨_, s.held, s.extClken, s.extPinmux, _, s.snap, s.rxVal, rfl⟩
  | setbaud d =>
    obtain ⟨-, -, h⟩ := whenDisabled_eq_next.mp h; cases h
    exact ⟨_, s.held, s.extClken, s.extPinmux, _, s.snap, s.rxVal, rfl⟩
  | enable =>
    obtain ⟨-, h⟩ := whenClocked_eq_next.mp h; cases h
    exact ⟨_, s.held, s.extClken, s.extPinmux, _, s.snap, s.rxVal, rfl⟩
  | snap =>
    obtain ⟨-, h⟩ := whenClocked_eq_next.mp h; cases h
    exact ⟨s.lu, s.held, s.extClken, s.extPinmux, s.trace, _, s.rxVal, rfl⟩
  | errclr =>
    obtain ⟨-, -, h⟩ := whenEnabled_eq_next.mp h; cases h
    exact ⟨_, s.held, s.extClken, s.extPinmux, _, s.snap, s.rxVal, rfl⟩
  | forceidle =>
    obtain ⟨-, -, h⟩ := whenEnabled_eq_next.mp h; cases h
    exact ⟨_, s.held, s.extClken, s.extPinmux, _, s.snap, s.rxVal, rfl⟩
  | start =>
    obtain ⟨-, -, h⟩ := whenEnabled_eq_next.mp h; cases h
    exact ⟨_, false, s.extClken, s.extPinmux, _, s.snap, s.rxVal, rfl⟩
  | addr b =>
    obtain ⟨-, -, h⟩ := whenEnabled_eq_next.mp h; cases h
    exact ⟨_, s.held, s.extClken, s.extPinmux, _, s.snap, s.rxVal, rfl⟩
  | tx b =>
    obtain ⟨-, -, h⟩ := whenEnabled_eq_next.mp h; cases h
    exact ⟨_, s.held, s.extClken, s.extPinmux, _, s.snap, s.rxVal, rfl⟩
  | rx a =>
    obtain ⟨-, -, h⟩ := whenEnabled_eq_next.mp h
    split at h
    · cases h; exact ⟨_, s.held, s.extClken, s.extPinmux, _, s.snap, _, rfl⟩
    · cases h
  | stop =>
    obtain ⟨-, -, h⟩ := whenEnabled_eq_next.mp h; cases h
    exact ⟨_, false, s.extClken, s.extPinmux, _, s.snap, s.rxVal, rfl⟩

theorem snap_inv {s t : State} (h : exec .snap s = .next t) :
    s.extClken = true ∧ t = s.setSnap s.lu.snapshot := by
  obtain ⟨h₁, h⟩ := whenClocked_eq_next.mp h; cases h; exact ⟨h₁, rfl⟩

theorem errclr_inv {s t : State} (h : exec .errclr s = .next t) :
    s.extClken = true ∧ s.lu.enable = true ∧
      t = (s.setLu { s.lu with busErr := false }).emit .errclr := by
  obtain ⟨h₁, h₂, h⟩ := whenEnabled_eq_next.mp h; cases h; exact ⟨h₁, h₂, rfl⟩

theorem forceidle_inv {s t : State} (h : exec .forceidle s = .next t) :
    s.extClken = true ∧ s.lu.enable = true ∧
      t = (s.setLu { s.lu with idleReq := true }).emit .forceidle := by
  obtain ⟨h₁, h₂, h⟩ := whenEnabled_eq_next.mp h; cases h; exact ⟨h₁, h₂, rfl⟩

theorem start_inv {s t : State} (h : exec .start s = .next t) :
    s.extClken = true ∧ s.lu.enable = true ∧
      t = ((s.setLu s.lu.start).setHeld false).emit (.start (decide (s.lu.busState = BusState.owner))) := by
  obtain ⟨h₁, h₂, h⟩ := whenEnabled_eq_next.mp h; cases h; exact ⟨h₁, h₂, rfl⟩

theorem addr_inv {b : Byte} {s t : State} (h : exec (.addr b) s = .next t) :
    s.extClken = true ∧ s.lu.enable = true ∧
      t = (s.setLu { s.lu with
        addr := b, txDone := false, pend := if b.getLsbD 0 then .addrr else .addrw }).emit (.addr b) := by
  obtain ⟨h₁, h₂, h⟩ := whenEnabled_eq_next.mp h; cases h; exact ⟨h₁, h₂, rfl⟩

theorem tx_inv {b : Byte} {s t : State} (h : exec (.tx b) s = .next t) :
    s.extClken = true ∧ s.lu.enable = true ∧
      t = (s.setLu { s.lu with data := b, txDone := false, pend := .txb }).emit (.tx b) := by
  obtain ⟨h₁, h₂, h⟩ := whenEnabled_eq_next.mp h; cases h; exact ⟨h₁, h₂, rfl⟩

theorem rx_inv {a : Ack} {s t : State} (h : exec (.rx a) s = .next t) :
    s.extClken = true ∧ s.lu.enable = true ∧ s.lu.rxRdy = true ∧
      t = ((s.setLu (s.lu.rx a)).setRxVal s.lu.data).emit (.rx s.lu.data a) := by
  obtain ⟨h₁, h₂, h⟩ := whenEnabled_eq_next.mp h
  split at h
  · next h₃ => cases h; exact ⟨h₁, h₂, h₃, rfl⟩
  · cases h

theorem stop_inv {s t : State} (h : exec .stop s = .next t) :
    s.extClken = true ∧ s.lu.enable = true ∧
      t = ((s.setLu s.lu.stop).setHeld false).emit .stop := by
  obtain ⟨h₁, h₂, h⟩ := whenEnabled_eq_next.mp h; cases h; exact ⟨h₁, h₂, rfl⟩

/-- The six operations of INIT always run to the end, and leave this. -/
theorem bringUp_eq (s : State) : bringUp s = .next { s with
    lu := { LineUnit.reset with
      enable := true, mode := true, div := divisor s.params s.baudrate, busState := .idle },
    held := false, extClken := true, extPinmux := true, inited := true, phase := .idle,
    trace := s.trace ++ [.clken, .pinmux, .swrst, .mode, .baud (divisor s.params s.baudrate), .enable] } := by
  simp [bringUp, execClken, execPinmux, execSwrst, execSetmode, execSetbaud, execEnable, whenClocked, whenDisabled,
    State.emit, State.setLu, LineUnit.reset]

/-- INIT's checks let a result through exactly where INITED = 0 and the baud rate passes R112. -/
theorem whenInitLegal_eq_next {s t : State} {baud : BitVec 32} {r : Result} :
    whenInitLegal s baud r = .next t ↔ s.inited = false ∧ baudOk s.params baud = true ∧ r = .next t := by
  unfold whenInitLegal
  cases s.inited <;> cases baudOk s.params baud <;> simp

/-- A command that answers a next state was launched at IDLE: INIT before INITED, a transfer after it. -/
theorem init_inv {baud : BitVec 32} {s t : State} (h : exec (.init baud) s = .next t) :
    s.phase = .idle ∧ s.inited = false ∧ baudOk s.params baud = true ∧
      bringUp { latch s 1#4 false 0#2 0#7 0#16 baud with phase := .init, baudrate := baud } = .next t := by
  simp only [exec, execInit] at h
  split at h
  · cases h
  · next hp => exact ⟨by simpa using hp, whenInitLegal_eq_next.mp h⟩

/-- What a transfer command's launch can change. -/
theorem transfer_inv {i : Instr} {s t : State} (hi : i.isCommand = true) (hn : ∀ b, i ≠ .init b)
    (h : exec i s = .next t) :
    s.phase = .idle ∧ s.inited = true ∧ (t.phase = .errchk ∨ t.phase = .start) ∧ t.act = false ∧
      ∃ op hold asize dev reg arg ph f0 f1 st, t = { s with
        op := op, hold := hold, asize := asize, dev := dev, reg := reg, arg := arg, phase := ph, fr0 := f0, fr1 := f1,
        stage := st, count := 0, fail := .none, act := false } := by
  have frame (u : State) : ∃ a b, writeFrame u = { u with fr0 := a, fr1 := b } := by
    obtain h | h := writeFrame_cases u
    · exact ⟨u.fr0, u.fr1, h⟩
    · exact h
  cases i with
  | init b => exact absurd rfl (hn b)
  | write dev len hold =>
    obtain ⟨h₁, h₂, -, h⟩ := whenReady_eq_next.mp h; cases h
    exact ⟨h₁, h₂, .inl rfl, rfl, _, _, _, _, _, _, _, s.fr0, s.fr1, s.stage, rfl⟩
  | read dev len =>
    obtain ⟨h₁, h₂, -, h⟩ := whenReady_eq_next.mp h; cases h
    exact ⟨h₁, h₂, .inr rfl, rfl, _, _, _, _, _, _, _, s.fr0, s.fr1, s.stage, rfl⟩
  | writeRegs dev reg asize len hold =>
    simp only [exec, execWriteRegs] at h
    split at h
    · obtain ⟨h₁, h₂, -, h⟩ := whenReady_eq_next.mp h; cases h
      obtain ⟨a, b, e⟩ := frame (launch s 4#4 hold asize dev reg len .errchk)
      rw [e]
      exact ⟨h₁, h₂, .inl rfl, rfl, _, _, _, _, _, _, _, a, b, s.stage, rfl⟩
    · cases h
  | readRegs dev reg asize len =>
    simp only [exec, execReadRegs] at h
    split at h
    · obtain ⟨h₁, h₂, -, h⟩ := whenReady_eq_next.mp h; cases h
      obtain ⟨a, b, e⟩ := frame (launch s 5#4 false asize dev reg len .errchk)
      rw [e]
      exact ⟨h₁, h₂, .inl rfl, rfl, _, _, _, _, _, _, _, a, b, false, rfl⟩
    · cases h
  | _ => cases hi

end Sys2Proof.Machine
end

