-- ==== Sys2Proof/Laws/Memory.lean ====
section
/-! SUPPORT. The laws of the canonical memory: what a write changes, and that it keeps the form. -/

namespace Sys2Proof.Machine

/-- A read after a write to the same index gives the byte written. -/
@[simp] theorem Memory.get_put_same (m : List Host.Cell) (i : Nat) (v : Byte) :
    Memory.get (Memory.put m i v) i = some v := by
  induction m with
  | nil => simp [Memory.put, Memory.get]
  | cons c m ih =>
    obtain ⟨k, w⟩ := c
    simp only [Memory.put]
    split
    · simp [Memory.get]
    · split
      · simp [Memory.get]
      · next h => simp [Memory.get, Ne.symm h, ih]

/-- A write leaves every other index alone. -/
theorem Memory.get_put_other {i j : Nat} (h : j ≠ i) (m : List Host.Cell) (v : Byte) :
    Memory.get (Memory.put m i v) j = Memory.get m j := by
  induction m with
  | nil => simp [Memory.put, Memory.get, Ne.symm h]
  | cons c m ih =>
    obtain ⟨k, w⟩ := c
    simp only [Memory.put]
    split
    · simp [Memory.get, Ne.symm h]
    · split
      · next h₁ => subst h₁; simp [Memory.get, Ne.symm h]
      · simp [Memory.get, ih]

/-- The indices a write can list: the one written and those listed before. -/
theorem Memory.mem_put {m : List Host.Cell} {i : Nat} {v : Byte} {c : Host.Cell} (h : c ∈ Memory.put m i v) :
    c = (i, v) ∨ c ∈ m := by
  induction m with
  | nil => simpa [Memory.put] using h
  | cons d m ih =>
    obtain ⟨k, w⟩ := d
    simp only [Memory.put] at h
    split at h
    · simpa using h
    · split at h
      · rcases List.mem_cons.mp h with h | h
        · exact .inl h
        · exact .inr (List.mem_cons_of_mem _ h)
      · rcases List.mem_cons.mp h with h | h
        · exact .inr (h ▸ List.mem_cons_self)
        · exact (ih h).imp_right (List.mem_cons_of_mem _)

/-- A write keeps the canonical form. -/
theorem Memory.wf_put {m : List Host.Cell} (h : Memory.wf m) (i : Nat) (v : Byte) : Memory.wf (Memory.put m i v) := by
  induction m with
  | nil => simp [Memory.put, Memory.wf]
  | cons c m ih =>
    obtain ⟨k, w⟩ := c
    obtain ⟨h₁, h₂⟩ := List.pairwise_cons.mp h
    simp only [Memory.put]
    split
    · next hi =>
      refine List.pairwise_cons.mpr ⟨fun d hd => ?_, h⟩
      rcases List.mem_cons.mp hd with rfl | hd
      · exact hi
      · exact Nat.lt_trans hi (h₁ d hd)
    · split
      · next hk => exact List.pairwise_cons.mpr ⟨fun d hd => hk ▸ h₁ d hd, h₂⟩
      · next hi hk =>
        refine List.pairwise_cons.mpr ⟨fun d hd => ?_, ih h₂⟩
        rcases Memory.mem_put hd with rfl | hd
        · show k < i
          omega
        · exact h₁ d hd

/-- Reset memory lists nothing. -/
theorem Memory.wf_reset : Memory.wf State.reset.buf := List.Pairwise.nil

@[simp] theorem Memory.byte_put_same (n : Nat) (m : List Host.Cell) (i : Nat) (v : Byte) :
    Memory.byte n (Memory.put m i v) i = v := by simp [Memory.byte]

theorem Memory.byte_put_other {i j : Nat} (h : j ≠ i) (n : Nat) (m : List Host.Cell) (v : Byte) :
    Memory.byte n (Memory.put m i v) j = Memory.byte n m j := by simp [Memory.byte, Memory.get_put_other h]

end Sys2Proof.Machine
end

