-- ==== Sys2Proof/Laws/PerInstr.lean ====
section
/-! SUPPORT. A law of every instruction as syntax: its encoding lies in its own row of the encoding tables
(30_encoding R62, R66). -/

namespace Sys2Proof

/-- The part of an encoding that an instruction's row of 30_encoding R62 or R66 fixes. -/
inductive TableRow where
  /-- Format CD: mask and match. -/
  | cd (r : CdRow)
  /-- Format LU: the register, the access, the mask of the pattern's fixed bits and their values. -/
  | lu (target : LuTarget) (kind : LuKind) (mask bits : Byte)
  deriving DecidableEq, Repr

/-- The row of an instruction, written from the tables of 30_encoding R62 and R66. -/
def Instr.row : Instr → TableRow
  | .init _ => .cd .init
  | .write _ _ _ => .cd .write
  | .read _ _ => .cd .read
  | .writeRegs _ _ _ _ _ => .cd .writeRegs
  | .readRegs _ _ _ _ => .cd .readRegs
  | .clken => .lu .extClken .write 0xFF#8 0x01#8
  | .pinmux => .lu .extPinmux .write 0xFF#8 0x01#8
  | .swrst => .lu .luCtrl .write 0xFF#8 0x01#8
  | .setmode => .lu .luCtrl .readModifyWrite 0xFF#8 0x04#8
  | .setbaud _ => .lu .luBaud .write 0x00#8 0x00#8
  | .enable => .lu .luCtrl .readModifyWrite 0xFF#8 0x06#8
  | .snap => .lu .statusAndFlags .read 0x00#8 0x00#8
  | .errclr => .lu .luStatus .write 0xFF#8 0x04#8
  | .forceidle => .lu .luStatus .write 0xFF#8 0x01#8
  | .start => .lu .luCmd .readModifyWrite 0xFB#8 0x01#8
  | .addr _ => .lu .luAddr .write 0x00#8 0x00#8
  | .tx _ => .lu .luData .write 0x00#8 0x00#8
  | .rx _ => .lu .luCmd .writeReadWrite 0xF8#8 0x00#8
  | .stop => .lu .luCmd .readModifyWrite 0xFB#8 0x03#8

/-- Does an encoding lie in a row? -/
def TableRow.holds : TableRow → Encoded → Prop
  | .cd r, .cd d => r.admits d = true
  | .lu t k m b, .lu a => a.target = t ∧ a.kind = k ∧ a.pattern &&& m = b
  | .cd _, .lu _ => False
  | .lu _ _ _ _, .cd _ => False

/-- The law: whatever LU_CMD holds, the encoding of the instruction lies in the instruction's row. -/
def Laws.EncodesInRow.Statement (i : Instr) : Prop := ∀ cur : Byte, i.row.holds (encode i cur)

theorem Laws.EncodesInRow.init (baud : BitVec 32) : Laws.EncodesInRow.Statement (.init baud) :=
  fun _ => admits_init baud

theorem Laws.EncodesInRow.write (dev : BitVec 7) (len : BitVec 16) (hold : Bool) :
    Laws.EncodesInRow.Statement (.write dev len hold) := fun _ => admits_write dev hold len

theorem Laws.EncodesInRow.read (dev : BitVec 7) (len : BitVec 16) : Laws.EncodesInRow.Statement (.read dev len) :=
  fun _ => admits_read dev len

theorem Laws.EncodesInRow.writeRegs (dev : BitVec 7) (reg : BitVec 16) (asize : BitVec 2) (len : BitVec 16)
    (hold : Bool) : Laws.EncodesInRow.Statement (.writeRegs dev reg asize len hold) :=
  fun _ => admits_writeRegs dev hold asize reg len

theorem Laws.EncodesInRow.readRegs (dev : BitVec 7) (reg : BitVec 16) (asize : BitVec 2) (len : BitVec 16) :
    Laws.EncodesInRow.Statement (.readRegs dev reg asize len) := fun _ => admits_readRegs dev asize reg len

theorem Laws.EncodesInRow.clken : Laws.EncodesInRow.Statement .clken := fun _ => ⟨rfl, rfl, rfl⟩

theorem Laws.EncodesInRow.pinmux : Laws.EncodesInRow.Statement .pinmux := fun _ => ⟨rfl, rfl, rfl⟩

theorem Laws.EncodesInRow.swrst : Laws.EncodesInRow.Statement .swrst := fun _ => ⟨rfl, rfl, rfl⟩

theorem Laws.EncodesInRow.setmode : Laws.EncodesInRow.Statement .setmode := fun _ => ⟨rfl, rfl, rfl⟩

theorem Laws.EncodesInRow.setbaud (d : BitVec Config.divWidth) : Laws.EncodesInRow.Statement (.setbaud d) :=
  fun _ => ⟨rfl, rfl, BitVec.and_zero⟩

theorem Laws.EncodesInRow.enable : Laws.EncodesInRow.Statement .enable := fun _ => ⟨rfl, rfl, rfl⟩

theorem Laws.EncodesInRow.snap : Laws.EncodesInRow.Statement .snap := fun _ => ⟨rfl, rfl, rfl⟩

theorem Laws.EncodesInRow.errclr : Laws.EncodesInRow.Statement .errclr := fun _ => ⟨rfl, rfl, rfl⟩

theorem Laws.EncodesInRow.forceidle : Laws.EncodesInRow.Statement .forceidle := fun _ => ⟨rfl, rfl, rfl⟩

theorem Laws.EncodesInRow.start : Laws.EncodesInRow.Statement .start :=
  fun cur => ⟨rfl, rfl, by revert cur; decide⟩

theorem Laws.EncodesInRow.addr (b : Byte) : Laws.EncodesInRow.Statement (.addr b) :=
  fun _ => ⟨rfl, rfl, BitVec.and_zero⟩

theorem Laws.EncodesInRow.tx (b : Byte) : Laws.EncodesInRow.Statement (.tx b) :=
  fun _ => ⟨rfl, rfl, BitVec.and_zero⟩

theorem Laws.EncodesInRow.rx (a : Ack) : Laws.EncodesInRow.Statement (.rx a) :=
  fun cur => ⟨rfl, rfl, by revert cur; cases a <;> decide⟩

theorem Laws.EncodesInRow.stop : Laws.EncodesInRow.Statement .stop :=
  fun cur => ⟨rfl, rfl, by revert cur; decide⟩

end Sys2Proof
end

