-- ==== Sys2Proof/Laws/Platform.lean ====
section
/-! SUPPORT. What a complete platform is, and what a step or a power-on reset of one of its blocks can be. -/

namespace Sys2Proof.Machine

/-- A platform is complete exactly when it has a block, the block at place `k` is bound to instance `k`, and each block
takes N_INSTANCES to be the number of blocks. -/
theorem Platform.complete_iff {p : Platform} :
    p.complete = true ↔ 1 ≤ p.blocks.length ∧ p.blocks.map (·.params.inst) = List.range p.blocks.length
      ∧ ∀ s ∈ p.blocks, s.params.nInst = p.blocks.length := by
  simp [Platform.complete, and_assoc]

/-- A step of a platform that answers a next platform is a step of one block, or names no block. -/
theorem Platform.step_eq_next {p q : Platform} {k : Nat} :
    p.step k = .next q ↔ p.apart = true ∧ p.complete = true ∧
      ((p.blocks[k]? = none ∧ q = p) ∨
        ∃ s t, p.blocks[k]? = some s ∧ Sys2Proof.Machine.step s = .next t ∧ q = ⟨p.blocks.set k t⟩) := by
  unfold Platform.step
  cases ha : p.apart <;> cases hc : p.complete <;> simp only [Bool.not_true, Bool.not_false, if_true, if_false,
    Bool.false_eq_true, reduceCtorEq, false_and, and_false, true_and]
  cases hk : p.blocks[k]? with
  | none => simp [eq_comm]
  | some s => cases hs : Sys2Proof.Machine.step s <;> simp [hs, eq_comm]

@[simp] theorem State.powerOn_params (s : State) : s.powerOn.params = s.params := rfl

@[simp] theorem Platform.resetBlock_params (k : Nat) : (Platform.resetBlock k).params = Config.paramsOf k := rfl

end Sys2Proof.Machine
end

