-- ==== Sys2Proof/Laws/Sequencer.lean ====
section
/-! SUPPORT. What the sequencer's own bookkeeping can change, and the inversion of one sequencer step. -/

namespace Sys2Proof.Machine

/-- `t` is `s` but for the sequencer's own fields, HELD and RESULT.FAIL. -/
def Kept (s t : State) : Prop :=
  ∃ held ret stage phase idx retry fail act, t = { s with
    held := held, ret := ret, stage := stage, phase := phase, idx := idx, retry := retry, fail := fail, act := act }

theorem Kept.refl (s : State) : Kept s s := ⟨_, _, _, _, _, _, _, _, rfl⟩

theorem Kept.trans {s t u : State} (h : Kept s t) (h' : Kept t u) : Kept s u := by
  obtain ⟨_, _, _, _, _, _, _, _, rfl⟩ := h
  obtain ⟨_, _, _, _, _, _, _, _, rfl⟩ := h'
  exact ⟨_, _, _, _, _, _, _, _, rfl⟩

theorem kept_setHeld (s : State) (b : Bool) : Kept s (s.setHeld b) :=
  ⟨b, s.ret, s.stage, s.phase, s.idx, s.retry, s.fail, s.act, rfl⟩

theorem kept_setRet (s : State) (k : BitVec 17) : Kept s (s.setRet k) :=
  ⟨s.held, k, s.stage, s.phase, s.idx, s.retry, s.fail, s.act, rfl⟩

theorem kept_setStage (s : State) (b : Bool) : Kept s (s.setStage b) :=
  ⟨s.held, s.ret, b, s.phase, s.idx, s.retry, s.fail, s.act, rfl⟩

theorem kept_setPhase (s : State) (p : Phase) : Kept s (s.setPhase p) :=
  ⟨s.held, s.ret, s.stage, p, s.idx, s.retry, s.fail, s.act, rfl⟩

theorem kept_setIdx (s : State) (i : BitVec 17) : Kept s (s.setIdx i) :=
  ⟨s.held, s.ret, s.stage, s.phase, i, s.retry, s.fail, s.act, rfl⟩

theorem kept_setRetry (s : State) (n : Nat) : Kept s (s.setRetry n) :=
  ⟨s.held, s.ret, s.stage, s.phase, s.idx, n, s.fail, s.act, rfl⟩

theorem kept_setFail (s : State) (f : Fail) : Kept s (s.setFail f) :=
  ⟨s.held, s.ret, s.stage, s.phase, s.idx, s.retry, f, s.act, rfl⟩

theorem kept_setAct (s : State) (b : Bool) : Kept s (s.setAct b) :=
  ⟨s.held, s.ret, s.stage, s.phase, s.idx, s.retry, s.fail, b, rfl⟩

theorem kept_afterPhase (s : State) : Kept s (afterPhase s) := by
  obtain ⟨-, -, h⟩ | ⟨-, h⟩ := afterPhase_cases s <;> rw [h]
  · exact (kept_setStage s _).trans (kept_setPhase _ _)
  · exact kept_setPhase s _

theorem kept_endWithStop (s : State) (k : BitVec 17) : Kept s (endWithStop s k) :=
  (kept_setRet s _).trans (kept_setPhase _ _)

theorem kept_failLoop (s : State) (f : Fail) : Kept s (failLoop s f) :=
  (kept_setFail s _).trans (kept_endWithStop _ _)

theorem kept_failAddr (s : State) : Kept s (failAddr s) := (kept_setFail s _).trans (kept_endWithStop _ _)

theorem kept_startWait (s : State) (p : Phase) : Kept s (startWait s p) :=
  (kept_setRetry s _).trans (kept_setPhase _ _)

theorem kept_writeLoop (s : State) : Kept s (writeLoop s) := by
  unfold writeLoop
  split
  · exact kept_setPhase s _
  · split
    · exact ((kept_setHeld s _).trans (kept_setRet _ _)).trans (kept_afterPhase _)
    · exact kept_endWithStop s _

theorem kept_readLoop (s : State) : Kept s (readLoop s) := by
  unfold readLoop
  split
  · exact kept_startWait s _
  · exact kept_endWithStop s _

theorem kept_testErrchk (s : State) : Kept s (testErrchk s) := by
  unfold testErrchk
  split
  · exact kept_setAct s _
  · exact kept_setPhase s _

theorem kept_testIdlechk (s : State) : Kept s (testIdlechk s) := by
  unfold testIdlechk
  split
  · exact kept_setAct s _
  · exact kept_setPhase s _

theorem kept_testIdlewait (s : State) : Kept s (testIdlewait s) := by
  unfold testIdlewait
  split
  · exact kept_setPhase s _
  · exact Kept.refl s

theorem kept_countPoll (s : State) : Kept s (countPoll s) := by
  unfold countPoll
  split
  · exact (kept_setRetry s _).trans (kept_failLoop _ _)
  · exact kept_setRetry s _

theorem kept_testAddrwait (s : State) : Kept s (testAddrwait s) := by
  unfold testAddrwait
  split
  · split
    · exact (kept_setIdx s _).trans (kept_readLoop _)
    · exact (kept_setIdx s _).trans (kept_writeLoop _)
  · exact kept_failAddr s
  · exact Kept.refl s
  · exact Kept.refl s

theorem kept_testTxwait (s : State) : Kept s (testTxwait s) := by
  unfold testTxwait
  split
  · exact (kept_setIdx s _).trans (kept_writeLoop _)
  · exact kept_failLoop s _
  · exact kept_failLoop s _
  · exact kept_countPoll s

theorem kept_testRxwait (s : State) : Kept s (testRxwait s) := by
  unfold testRxwait
  split
  · exact kept_setPhase s _
  · exact Kept.refl s
  · exact kept_failLoop s _
  · exact kept_countPoll s

/-! ### What the heads of the loops and the end of a phase leave alone -/

@[simp] theorem afterPhase_params (s : State) : (afterPhase s).params = s.params := by
  unfold afterPhase; split <;> rfl

@[simp] theorem afterPhase_cmd (s : State) : (afterPhase s).cmd = s.cmd := by
  unfold afterPhase; split <;> rfl

@[simp] theorem afterPhase_count (s : State) : (afterPhase s).count = s.count := by
  unfold afterPhase; split <;> rfl

@[simp] theorem afterPhase_fail (s : State) : (afterPhase s).fail = s.fail := by
  unfold afterPhase; split <;> rfl

@[simp] theorem afterPhase_op (s : State) : (afterPhase s).op = s.op := by
  unfold afterPhase; split <;> rfl

@[simp] theorem afterPhase_hold (s : State) : (afterPhase s).hold = s.hold := by
  unfold afterPhase; split <;> rfl

@[simp] theorem afterPhase_asize (s : State) : (afterPhase s).asize = s.asize := by
  unfold afterPhase; split <;> rfl

@[simp] theorem afterPhase_dev (s : State) : (afterPhase s).dev = s.dev := by
  unfold afterPhase; split <;> rfl

@[simp] theorem afterPhase_reg (s : State) : (afterPhase s).reg = s.reg := by
  unfold afterPhase; split <;> rfl

@[simp] theorem afterPhase_arg (s : State) : (afterPhase s).arg = s.arg := by
  unfold afterPhase; split <;> rfl

@[simp] theorem afterPhase_idx (s : State) : (afterPhase s).idx = s.idx := by
  unfold afterPhase; split <;> rfl

@[simp] theorem afterPhase_retry (s : State) : (afterPhase s).retry = s.retry := by
  unfold afterPhase; split <;> rfl

@[simp] theorem afterPhase_fr0 (s : State) : (afterPhase s).fr0 = s.fr0 := by
  unfold afterPhase; split <;> rfl

@[simp] theorem afterPhase_fr1 (s : State) : (afterPhase s).fr1 = s.fr1 := by
  unfold afterPhase; split <;> rfl

@[simp] theorem afterPhase_baudrate (s : State) : (afterPhase s).baudrate = s.baudrate := by
  unfold afterPhase; split <;> rfl

@[simp] theorem afterPhase_held (s : State) : (afterPhase s).held = s.held := by
  unfold afterPhase; split <;> rfl

@[simp] theorem afterPhase_inited (s : State) : (afterPhase s).inited = s.inited := by
  unfold afterPhase; split <;> rfl

@[simp] theorem afterPhase_lu (s : State) : (afterPhase s).lu = s.lu := by
  unfold afterPhase; split <;> rfl

@[simp] theorem afterPhase_extClken (s : State) : (afterPhase s).extClken = s.extClken := by
  unfold afterPhase; split <;> rfl

@[simp] theorem afterPhase_extPinmux (s : State) : (afterPhase s).extPinmux = s.extPinmux := by
  unfold afterPhase; split <;> rfl

@[simp] theorem afterPhase_divCnt (s : State) : (afterPhase s).divCnt = s.divCnt := by
  unfold afterPhase; split <;> rfl

@[simp] theorem afterPhase_sclHalf (s : State) : (afterPhase s).sclHalf = s.sclHalf := by
  unfold afterPhase; split <;> rfl

@[simp] theorem afterPhase_buf (s : State) : (afterPhase s).buf = s.buf := by
  unfold afterPhase; split <;> rfl

@[simp] theorem afterPhase_trace (s : State) : (afterPhase s).trace = s.trace := by
  unfold afterPhase; split <;> rfl

@[simp] theorem afterPhase_snap (s : State) : (afterPhase s).snap = s.snap := by
  unfold afterPhase; split <;> rfl

@[simp] theorem afterPhase_rxVal (s : State) : (afterPhase s).rxVal = s.rxVal := by
  unfold afterPhase; split <;> rfl

@[simp] theorem afterPhase_ret (s : State) : (afterPhase s).ret = s.ret := by
  unfold afterPhase; split <;> rfl

@[simp] theorem afterPhase_act (s : State) : (afterPhase s).act = s.act := by
  unfold afterPhase; split <;> rfl

@[simp] theorem afterPhase_agent (s : State) : (afterPhase s).agent = s.agent := by
  unfold afterPhase; split <;> rfl

@[simp] theorem afterPhase_tick (s : State) : (afterPhase s).tick = s.tick := by
  unfold afterPhase; split <;> rfl

@[simp] theorem afterPhase_host (s : State) : (afterPhase s).host = s.host := by
  unfold afterPhase; split <;> rfl

@[simp] theorem afterPhase_hostOut (s : State) : (afterPhase s).hostOut = s.hostOut := by
  unfold afterPhase; split <;> rfl

@[simp] theorem afterPhase_luPort (s : State) : (afterPhase s).luPort = s.luPort := by
  unfold afterPhase; split <;> rfl

@[simp] theorem writeLoop_params (s : State) : (writeLoop s).params = s.params := by
  unfold writeLoop endWithStop; split <;> (try split) <;> simp

@[simp] theorem writeLoop_cmd (s : State) : (writeLoop s).cmd = s.cmd := by
  unfold writeLoop endWithStop; split <;> (try split) <;> simp

@[simp] theorem writeLoop_count (s : State) : (writeLoop s).count = s.count := by
  unfold writeLoop endWithStop; split <;> (try split) <;> simp

@[simp] theorem writeLoop_fail (s : State) : (writeLoop s).fail = s.fail := by
  unfold writeLoop endWithStop; split <;> (try split) <;> simp

@[simp] theorem writeLoop_op (s : State) : (writeLoop s).op = s.op := by
  unfold writeLoop endWithStop; split <;> (try split) <;> simp

@[simp] theorem writeLoop_hold (s : State) : (writeLoop s).hold = s.hold := by
  unfold writeLoop endWithStop; split <;> (try split) <;> simp

@[simp] theorem writeLoop_asize (s : State) : (writeLoop s).asize = s.asize := by
  unfold writeLoop endWithStop; split <;> (try split) <;> simp

@[simp] theorem writeLoop_dev (s : State) : (writeLoop s).dev = s.dev := by
  unfold writeLoop endWithStop; split <;> (try split) <;> simp

@[simp] theorem writeLoop_reg (s : State) : (writeLoop s).reg = s.reg := by
  unfold writeLoop endWithStop; split <;> (try split) <;> simp

@[simp] theorem writeLoop_arg (s : State) : (writeLoop s).arg = s.arg := by
  unfold writeLoop endWithStop; split <;> (try split) <;> simp

@[simp] theorem writeLoop_idx (s : State) : (writeLoop s).idx = s.idx := by
  unfold writeLoop endWithStop; split <;> (try split) <;> simp

@[simp] theorem writeLoop_retry (s : State) : (writeLoop s).retry = s.retry := by
  unfold writeLoop endWithStop; split <;> (try split) <;> simp

@[simp] theorem writeLoop_fr0 (s : State) : (writeLoop s).fr0 = s.fr0 := by
  unfold writeLoop endWithStop; split <;> (try split) <;> simp

@[simp] theorem writeLoop_fr1 (s : State) : (writeLoop s).fr1 = s.fr1 := by
  unfold writeLoop endWithStop; split <;> (try split) <;> simp

@[simp] theorem writeLoop_baudrate (s : State) : (writeLoop s).baudrate = s.baudrate := by
  unfold writeLoop endWithStop; split <;> (try split) <;> simp

@[simp] theorem writeLoop_inited (s : State) : (writeLoop s).inited = s.inited := by
  unfold writeLoop endWithStop; split <;> (try split) <;> simp

@[simp] theorem writeLoop_lu (s : State) : (writeLoop s).lu = s.lu := by
  unfold writeLoop endWithStop; split <;> (try split) <;> simp

@[simp] theorem writeLoop_extClken (s : State) : (writeLoop s).extClken = s.extClken := by
  unfold writeLoop endWithStop; split <;> (try split) <;> simp

@[simp] theorem writeLoop_extPinmux (s : State) : (writeLoop s).extPinmux = s.extPinmux := by
  unfold writeLoop endWithStop; split <;> (try split) <;> simp

@[simp] theorem writeLoop_divCnt (s : State) : (writeLoop s).divCnt = s.divCnt := by
  unfold writeLoop endWithStop; split <;> (try split) <;> simp

@[simp] theorem writeLoop_sclHalf (s : State) : (writeLoop s).sclHalf = s.sclHalf := by
  unfold writeLoop endWithStop; split <;> (try split) <;> simp

@[simp] theorem writeLoop_buf (s : State) : (writeLoop s).buf = s.buf := by
  unfold writeLoop endWithStop; split <;> (try split) <;> simp

@[simp] theorem writeLoop_trace (s : State) : (writeLoop s).trace = s.trace := by
  unfold writeLoop endWithStop; split <;> (try split) <;> simp

@[simp] theorem writeLoop_snap (s : State) : (writeLoop s).snap = s.snap := by
  unfold writeLoop endWithStop; split <;> (try split) <;> simp

@[simp] theorem writeLoop_rxVal (s : State) : (writeLoop s).rxVal = s.rxVal := by
  unfold writeLoop endWithStop; split <;> (try split) <;> simp

@[simp] theorem writeLoop_act (s : State) : (writeLoop s).act = s.act := by
  unfold writeLoop endWithStop; split <;> (try split) <;> simp

@[simp] theorem writeLoop_agent (s : State) : (writeLoop s).agent = s.agent := by
  unfold writeLoop endWithStop; split <;> (try split) <;> simp

@[simp] theorem writeLoop_tick (s : State) : (writeLoop s).tick = s.tick := by
  unfold writeLoop endWithStop; split <;> (try split) <;> simp

@[simp] theorem writeLoop_host (s : State) : (writeLoop s).host = s.host := by
  unfold writeLoop endWithStop; split <;> (try split) <;> simp

@[simp] theorem writeLoop_hostOut (s : State) : (writeLoop s).hostOut = s.hostOut := by
  unfold writeLoop endWithStop; split <;> (try split) <;> simp

@[simp] theorem writeLoop_luPort (s : State) : (writeLoop s).luPort = s.luPort := by
  unfold writeLoop endWithStop; split <;> (try split) <;> simp

@[simp] theorem readLoop_params (s : State) : (readLoop s).params = s.params := by
  unfold readLoop endWithStop startWait; split <;> simp

@[simp] theorem readLoop_cmd (s : State) : (readLoop s).cmd = s.cmd := by
  unfold readLoop endWithStop startWait; split <;> simp

@[simp] theorem readLoop_count (s : State) : (readLoop s).count = s.count := by
  unfold readLoop endWithStop startWait; split <;> simp

@[simp] theorem readLoop_fail (s : State) : (readLoop s).fail = s.fail := by
  unfold readLoop endWithStop startWait; split <;> simp

@[simp] theorem readLoop_op (s : State) : (readLoop s).op = s.op := by
  unfold readLoop endWithStop startWait; split <;> simp

@[simp] theorem readLoop_hold (s : State) : (readLoop s).hold = s.hold := by
  unfold readLoop endWithStop startWait; split <;> simp

@[simp] theorem readLoop_asize (s : State) : (readLoop s).asize = s.asize := by
  unfold readLoop endWithStop startWait; split <;> simp

@[simp] theorem readLoop_dev (s : State) : (readLoop s).dev = s.dev := by
  unfold readLoop endWithStop startWait; split <;> simp

@[simp] theorem readLoop_reg (s : State) : (readLoop s).reg = s.reg := by
  unfold readLoop endWithStop startWait; split <;> simp

@[simp] theorem readLoop_arg (s : State) : (readLoop s).arg = s.arg := by
  unfold readLoop endWithStop startWait; split <;> simp

@[simp] theorem readLoop_idx (s : State) : (readLoop s).idx = s.idx := by
  unfold readLoop endWithStop startWait; split <;> simp

@[simp] theorem readLoop_fr0 (s : State) : (readLoop s).fr0 = s.fr0 := by
  unfold readLoop endWithStop startWait; split <;> simp

@[simp] theorem readLoop_fr1 (s : State) : (readLoop s).fr1 = s.fr1 := by
  unfold readLoop endWithStop startWait; split <;> simp

@[simp] theorem readLoop_stage (s : State) : (readLoop s).stage = s.stage := by
  unfold readLoop endWithStop startWait; split <;> simp

@[simp] theorem readLoop_baudrate (s : State) : (readLoop s).baudrate = s.baudrate := by
  unfold readLoop endWithStop startWait; split <;> simp

@[simp] theorem readLoop_held (s : State) : (readLoop s).held = s.held := by
  unfold readLoop endWithStop startWait; split <;> simp

@[simp] theorem readLoop_inited (s : State) : (readLoop s).inited = s.inited := by
  unfold readLoop endWithStop startWait; split <;> simp

@[simp] theorem readLoop_lu (s : State) : (readLoop s).lu = s.lu := by
  unfold readLoop endWithStop startWait; split <;> simp

@[simp] theorem readLoop_extClken (s : State) : (readLoop s).extClken = s.extClken := by
  unfold readLoop endWithStop startWait; split <;> simp

@[simp] theorem readLoop_extPinmux (s : State) : (readLoop s).extPinmux = s.extPinmux := by
  unfold readLoop endWithStop startWait; split <;> simp

@[simp] theorem readLoop_divCnt (s : State) : (readLoop s).divCnt = s.divCnt := by
  unfold readLoop endWithStop startWait; split <;> simp

@[simp] theorem readLoop_sclHalf (s : State) : (readLoop s).sclHalf = s.sclHalf := by
  unfold readLoop endWithStop startWait; split <;> simp

@[simp] theorem readLoop_buf (s : State) : (readLoop s).buf = s.buf := by
  unfold readLoop endWithStop startWait; split <;> simp

@[simp] theorem readLoop_trace (s : State) : (readLoop s).trace = s.trace := by
  unfold readLoop endWithStop startWait; split <;> simp

@[simp] theorem readLoop_snap (s : State) : (readLoop s).snap = s.snap := by
  unfold readLoop endWithStop startWait; split <;> simp

@[simp] theorem readLoop_rxVal (s : State) : (readLoop s).rxVal = s.rxVal := by
  unfold readLoop endWithStop startWait; split <;> simp

@[simp] theorem readLoop_act (s : State) : (readLoop s).act = s.act := by
  unfold readLoop endWithStop startWait; split <;> simp

@[simp] theorem readLoop_agent (s : State) : (readLoop s).agent = s.agent := by
  unfold readLoop endWithStop startWait; split <;> simp

@[simp] theorem readLoop_tick (s : State) : (readLoop s).tick = s.tick := by
  unfold readLoop endWithStop startWait; split <;> simp

@[simp] theorem readLoop_host (s : State) : (readLoop s).host = s.host := by
  unfold readLoop endWithStop startWait; split <;> simp

@[simp] theorem readLoop_hostOut (s : State) : (readLoop s).hostOut = s.hostOut := by
  unfold readLoop endWithStop startWait; split <;> simp

@[simp] theorem readLoop_luPort (s : State) : (readLoop s).luPort = s.luPort := by
  unfold readLoop endWithStop startWait; split <;> simp

/-- SNAP completes where the clock gate is open, and hands the snapshot to the test that follows. -/
theorem issue_snap {s : State} (h : s.extClken = true) (k : State → Result) :
    issue .snap s k = k (s.setSnap s.lu.snapshot) := by
  simp [issue, exec, execSnap, whenClocked, h]

theorem issue_eq_next {i : Instr} {s t : State} {k : State → Result} :
    issue i s k = .next t ↔ ∃ u, exec i s = .next u ∧ k u = .next t := andThen_eq_next

/-- The operation the sequencer issues in a PHASE (10_state R14); none in IDLE, INIT and DONE. -/
def seqOp (s : State) : Option Instr :=
  match s.phase with
  | .idle => none
  | .init => none
  | .errchk => some (if s.act then .errclr else .snap)
  | .idlechk => some (if s.act then .forceidle else .snap)
  | .idlewait => some .snap
  | .start => some .start
  | .addr => some (.addr (addressByte s.dev s.isRead))
  | .addrwait => some .snap
  | .txbyte =>
    match streamByte s with
    | .ok b => some (.tx b)
    | .error _ => none
  | .txwait => some .snap
  | .rxwait => some .snap
  | .rxbyte => some (.rx (rxAck s))
  | .stop => some .stop
  | .done => none

/-- A sequencer step that issues an operation: what the operation left, the byte stored at RXBYTE, and the
bookkeeping. -/
theorem seqStep_cases {s t : State} (h : seqStep s = .next t) :
    (s.phase = .idle ∧ t = s) ∨ (s.phase = .init ∧ s.inited = false ∧ bringUp s = .next t) ∨
      (s.phase = .done ∧ t = finish s) ∨
      ∃ i u, seqOp s = some i ∧ exec i s = .next u ∧
        ((s.phase ≠ .rxbyte ∧ Kept u t) ∨
          (s.phase = .rxbyte ∧ u.idx.toNat < u.params.bufSize ∧
            Kept (u.setBuf (Memory.put u.buf u.idx.toNat u.rxVal)) t)) := by
  unfold seqStep at h
  unfold seqOp
  cases hp : s.phase <;> simp only [hp] at h ⊢
  case idle => cases h; exact .inl ⟨trivial, rfl⟩
  case init => exact .inr (.inl ⟨trivial, (whenInitLegal_eq_next.mp h).imp_right And.right⟩)
  case done => cases h; exact .inr (.inr (.inl ⟨trivial, rfl⟩))
  all_goals refine .inr (.inr (.inr ?_))
  case errchk =>
    split at h
    · next ha =>
      obtain ⟨u, hu, e⟩ := issue_eq_next.mp h; cases e
      exact ⟨_, u, by simp [ha], hu, .inl ⟨by simp, (kept_setAct u _).trans (kept_setPhase _ _)⟩⟩
    · next ha =>
      obtain ⟨u, hu, e⟩ := issue_eq_next.mp h; cases e
      exact ⟨_, u, by simp [ha], hu, .inl ⟨by simp, kept_testErrchk u⟩⟩
  case idlechk =>
    split at h
    · next ha =>
      obtain ⟨u, hu, e⟩ := issue_eq_next.mp h; cases e
      exact ⟨_, u, by simp [ha], hu, .inl ⟨by simp, (kept_setAct u _).trans (kept_setPhase _ _)⟩⟩
    · next ha =>
      obtain ⟨u, hu, e⟩ := issue_eq_next.mp h; cases e
      exact ⟨_, u, by simp [ha], hu, .inl ⟨by simp, kept_testIdlechk u⟩⟩
  case txbyte =>
    split at h
    · next b hb =>
      obtain ⟨u, hu, e⟩ := issue_eq_next.mp h; cases e
      exact ⟨_, u, by simp [hb], hu, .inl ⟨by simp, kept_startWait u _⟩⟩
    · cases h
  case rxbyte =>
    obtain ⟨u, hu, e⟩ := issue_eq_next.mp h
    obtain ⟨v, hv, e⟩ := andThen_eq_next.mp e; cases e
    obtain ⟨hb, rfl⟩ := writeBuf_eq_next.mp hv
    exact ⟨_, u, rfl, hu, .inr ⟨trivial, hb, (kept_setIdx _ _).trans (kept_readLoop _)⟩⟩
  all_goals
    obtain ⟨u, hu, e⟩ := issue_eq_next.mp h; cases e
    refine ⟨_, u, rfl, hu, .inl ⟨by simp, ?_⟩⟩
  case idlewait => exact kept_testIdlewait u
  case start => exact kept_setPhase u _
  case addr => exact kept_setPhase u _
  case addrwait => exact kept_testAddrwait u
  case txwait => exact kept_testTxwait u
  case rxwait => exact kept_testRxwait u
  case stop => exact kept_afterPhase u

end Sys2Proof.Machine
end

