-- ==== Sys2Proof/Laws/Step.lean ====
section
/-! SUPPORT. What a step can do: one inversion lemma for each source of a step, and one for the whole. -/

namespace Sys2Proof.Machine

/-- A step that answers a next state is one of four: an access on the port, waiting, a host access, the sequencer. -/
theorem step_cases {s t : State} (h : step s = .next t) :
    (∃ a, s.luPort = some a ∧ accessLu a ((envTurn s).setPort none) = .next t) ∨
    (s.luPort = none ∧ s.phase = .idle ∧ s.host = [] ∧ t = envTurn s) ∨
    (∃ a rest, s.luPort = none ∧ s.phase = .idle ∧ s.host = a :: rest ∧
      hostAccess a ((envTurn s).setHost rest) = .next t) ∨
    (s.luPort = none ∧ s.phase ≠ .idle ∧ seqStep (envTurn s) = .next t) := by
  simp only [step, fetchStep, envTurn_luPort, envTurn_phase, envTurn_host] at h
  split at h
  · next a ha => exact .inl ⟨a, ha, h⟩
  · next hp =>
    split at h
    · next hi =>
      split at h
      · next a rest hh => exact .inr (.inr (.inl ⟨a, rest, hp, hi, hh, h⟩))
      · next hh => exact .inr (.inl ⟨hp, hi, hh, by cases h; rfl⟩)
    · next hi => exact .inr (.inr (.inr ⟨hp, hi, h⟩))

/-- An access on the port runs the operation it decodes to. -/
theorem accessLu_cases {a : LuAccess} {s t : State} (h : accessLu a s = .next t) :
    ∃ i, decodeLu a = .ok i ∧ exec i s = .next t := by
  unfold accessLu at h
  split at h
  · next i hi => exact ⟨i, hi, h⟩
  · cases h

/-- A line-unit access never decodes to a host command. -/
theorem decodeLu_isCommand {a : LuAccess} {i : Instr} (h : decodeLu a = .ok i) : i.isCommand = false := by
  obtain ⟨t, k, p⟩ := a
  cases t <;> cases k <;>
    simp only [decodeLu, onPattern, decodeLuCmd, decodeRx, Except.ok.injEq, reduceCtorEq] at h <;>
    (try split at h) <;> (try split at h) <;> (try cases h) <;> rfl

/-- A descriptor never decodes to a line-unit operation. -/
theorem decodeCmd_isCommand {d : BitVec 64} {i : Instr} (h : decodeCmd d = .ok i) : i.isCommand = true := by
  unfold decodeCmd withAsize at h
  repeat' split at h
  all_goals first | (cases h; rfl) | cases h

/-- A host access that answers a next state launched a command, or was a read, an ignored write, or a write of BUF. -/
theorem hostAccess_cases {a : HostAct} {s t : State} (h : hostAccess a s = .next t) :
    s.phase = .idle ∧
    ((∃ d i, decodeCmd d = .ok i ∧ exec i (s.setCmd d) = .next t) ∨
     (∃ out, t = { s with hostOut := out }) ∨
     (∃ i v, i < s.params.bufSize ∧ t = s.setBuf (Memory.put s.buf i v))) := by
  unfold hostAccess at h
  split at h
  · cases h
  · next hp =>
    refine ⟨by simpa using hp, ?_⟩
    cases a with
    | writeReg off bytes =>
      simp only at h
      split at h
      · unfold writeCmd at h
        split at h
        · next i hi => exact .inl ⟨_, i, hi, h⟩
        · cases h
      · split at h
        · cases h; exact .inr (.inl ⟨s.hostOut, rfl⟩)
        · cases h
    | readReg off n =>
      simp only at h
      split at h
      · cases h; exact .inr (.inl ⟨_, rfl⟩)
      · split at h
        · cases h; exact .inr (.inl ⟨_, rfl⟩)
        · cases h
    | writeBuf i v =>
      obtain ⟨h₁, h₂⟩ := writeBuf_eq_next.mp h
      exact .inr (.inr ⟨i, v, h₁, h₂.symm⟩)
    | readBuf i =>
      simp only at h
      split at h
      · cases h; exact .inr (.inl ⟨_, rfl⟩)
      · cases h

/-- The bytes of a descriptor make that descriptor. -/
theorem fromBytesLE_toBytesLE (n w : Nat) : fromBytesLE (toBytesLE n w) = w % 256 ^ n := by
  induction n generalizing w with
  | zero => simp [toBytesLE, fromBytesLE, Nat.mod_one]
  | succ n ih =>
    simp only [toBytesLE, fromBytesLE, ih, BitVec.toNat_ofNat]
    exact (pow_succ' 256 n ▸ Nat.mod_mul).symm

@[simp] theorem cmdOfBytes_toBytesLE (d : BitVec 64) : cmdOfBytes (toBytesLE 8 d.toNat) = d := by
  rw [cmdOfBytes, fromBytesLE_toBytesLE, Nat.mod_eq_of_lt (show d.toNat < 256 ^ 8 from d.isLt), BitVec.ofNat_toNat,
    BitVec.setWidth_eq]

@[simp] theorem toBytesLE_length (n w : Nat) : (toBytesLE n w).length = n := by
  induction n generalizing w with
  | zero => rfl
  | succ n ih => simp [toBytesLE, ih]

end Sys2Proof.Machine
end

