-- ==== Sys2Proof/Tests/Slice0.lean ====
section
/-! SUPPORT. The model's own tests: ill-formed instructions, words written out from the spec's encodings, one step of
each instruction with a value from the spec's examples, and for each statement with hypotheses a state and operands
that meet them. -/

namespace Sys2Proof.Machine

/-- The next state of a result. -/
def out : Result → Option State
  | .next t => some t
  | .fault _ => none
  | .refused _ => none

/-- Does the result go on, in a state of which `p` holds? -/
def ok (r : Result) (p : State → Bool) : Bool :=
  match r with
  | .next t => p t
  | .fault _ => false
  | .refused _ => false

/-- Why a result is refused. -/
def why : Result → Option Refusal
  | .next _ => none
  | .fault _ => none
  | .refused e => some e

/-- The parameters of the spec's programs: SYSCLK_HZ = 48,000,000, RETRY_BUDGET = 3, BUF_SIZE = 16
(95_test_vectors). -/
def tp : Params := ⟨48000000, 2, 0, 3, 16, 0⟩

/-- Power-on reset with those parameters. -/
def ts : State := { State.reset with params := tp }

/-- After INIT 100000. -/
def ti : State := (out (exec (.init 100000) ts)).getD ts

/-- After INIT, BUF holding 1, 2, 3, 4, and an environment that does nothing for three turns. -/
def tb : State := { ti with buf := [(0, 1), (1, 2), (2, 3), (3, 4)], agent := [[], [], []] }

/-- In the middle of a WRITE of two bytes to device 0x50, at a given PHASE, owning the bus. -/
def tw (p : Phase) : State :=
  { tb with phase := p, op := 2, dev := 0x50, arg := 2, retry := 3, lu := { tb.lu with busState := .owner } }

/-- The same with a line unit that a function changes. -/
def twLu (p : Phase) (f : LineUnit → LineUnit) : State := { tw p with lu := f (tw p).lu }

/-! ### Well-formedness -/

theorem test_asize_0_illFormed : (Instr.writeRegs 0x50 0x01A3 0 3 false).wellFormed = false := by decide

theorem test_asize_3_illFormed : (Instr.readRegs 0x50 0x01A3 3 3).wellFormed = false := by decide

theorem test_len_above_bufSize_illegal : (Instr.write 0x50 17 false).legal tp = false := by decide

theorem test_len_bufSize_legal : (Instr.read 0x50 16).legal tp = true := by decide

theorem test_regs_asize_illegal : (Instr.readRegs 0x50 0 0 1).legal tp = false := by decide

/-- 41_initialize R112's worked values: 24,000,001 gives q = 0, 90,000 gives d = 265, and 0 has no division. -/
theorem test_bauds_illegal :
    baudOk tp 0 = false ∧ baudOk tp 24000001 = false ∧ baudOk tp 90000 = false := by decide

/-- 41_initialize R112's worked values that are legal. -/
theorem test_bauds_divisors :
    (divisor tp 100000, divisor tp 400000, divisor tp 350000, divisor tp 24000000, divisor tp 93750, divisor tp 93749)
      = (239#8, 59#8, 67#8, 0#8, 255#8, 255#8) := by decide

/-! ### Decoding, on words written out from the encodings -/

/-- INIT 100000 (41_initialize R110's example). -/
theorem test_decode_init : decodeCmd 0x000186A000000001#64 = .ok (.init 100000) := by decide

/-- WRITE 0x50, 2 (42_write R120's example), and with HOLD (30_encoding R60: bit 4). -/
theorem test_decode_write :
    decodeCmd 0x0000000200005002#64 = .ok (.write 0x50 2 false)
      ∧ decodeCmd 0x0000000200005012#64 = .ok (.write 0x50 2 true) := by decide

/-- READ 0x51, 2 (43_read R146's example), and the largest DEV and LEN (30_encoding R60). -/
theorem test_decode_read :
    decodeCmd 0x0000000200005103#64 = .ok (.read 0x51 2)
      ∧ decodeCmd 0x0000FFFF00007F03#64 = .ok (.read 0x7F 65535) := by decide

/-- WRITE_REGS 0x50, 0x01A3, 2, 3 (44_register_access R165's example). -/
theorem test_decode_writeRegs : decodeCmd 0x0000000301A35044#64 = .ok (.writeRegs 0x50 0x01A3 2 3 false) := by decide

/-- READ_REGS 0x50, 0x01A3, 2, 3 (44_register_access R169's example). -/
theorem test_decode_readRegs : decodeCmd 0x0000000301A35045#64 = .ok (.readRegs 0x50 0x01A3 2 3) := by decide

/-- 30_encoding R67: reserved OP, a reserved bit, an unused field, ARG[31:16], HOLD on READ, ASIZE 0 and 3. -/
theorem test_decode_illegal :
    decodeCmd 0x0000000000000000#64 = .error .reservedOp ∧ decodeCmd 0x0000000000000006#64 = .error .reservedOp
      ∧ decodeCmd 0x000000000000000F#64 = .error .reservedOp ∧ decodeCmd 0x0000000200005082#64 = .error .unusedField
      ∧ decodeCmd 0x000000020000D002#64 = .error .unusedField ∧ decodeCmd 0x0000000200015002#64 = .error .unusedField
      ∧ decodeCmd 0x0001000200005002#64 = .error .unusedField ∧ decodeCmd 0x0000000200005013#64 = .error .unusedField
      ∧ decodeCmd 0x0000000301A35004#64 = .error .badAsize ∧ decodeCmd 0x0000000301A35065#64 = .error .badAsize := by
  decide

/-- 30_encoding R66: the two external bits, LU_CTRL, LU_BAUD. -/
theorem test_decode_bringUp :
    decodeLu ⟨.extClken, .write, 0b00000001#8⟩ = .ok .clken ∧ decodeLu ⟨.extPinmux, .write, 0b00000001#8⟩ = .ok .pinmux
      ∧ decodeLu ⟨.luCtrl, .write, 0b00000001#8⟩ = .ok .swrst
      ∧ decodeLu ⟨.luCtrl, .readModifyWrite, 0b00000100#8⟩ = .ok .setmode
      ∧ decodeLu ⟨.luBaud, .write, 0b11101111#8⟩ = .ok (.setbaud 239)
      ∧ decodeLu ⟨.luCtrl, .readModifyWrite, 0b00000110#8⟩ = .ok .enable := by decide

/-- 30_encoding R66: LU_STATUS with LU_FLAGS, and the two write-one bits of LU_STATUS. -/
theorem test_decode_status :
    decodeLu ⟨.statusAndFlags, .read, 0#8⟩ = .ok .snap ∧ decodeLu ⟨.luStatus, .write, 0b00000100#8⟩ = .ok .errclr
      ∧ decodeLu ⟨.luStatus, .write, 0b00000001#8⟩ = .ok .forceidle := by decide

/-- 30_encoding R66: LU_CMD with bit 2 at either value, LU_ADDR, LU_DATA. -/
theorem test_decode_transfer :
    decodeLu ⟨.luCmd, .readModifyWrite, 0b00000001#8⟩ = .ok .start
      ∧ decodeLu ⟨.luCmd, .readModifyWrite, 0b00000101#8⟩ = .ok .start
      ∧ decodeLu ⟨.luAddr, .write, 0xA0#8⟩ = .ok (.addr 0xA0) ∧ decodeLu ⟨.luData, .write, 0x01#8⟩ = .ok (.tx 0x01)
      ∧ decodeLu ⟨.luCmd, .writeReadWrite, 0b00000000#8⟩ = .ok (.rx .ack)
      ∧ decodeLu ⟨.luCmd, .writeReadWrite, 0b00000101#8⟩ = .ok (.rx .nack)
      ∧ decodeLu ⟨.luCmd, .readModifyWrite, 0b00000111#8⟩ = .ok .stop := by decide

/-- Patterns with a bit that 30_encoding R66 fixes at 0, and an access to a register that no operation makes. -/
theorem test_decode_noOperation :
    decodeLu ⟨.luCmd, .readModifyWrite, 0b00001001#8⟩ = .error .noOperation
      ∧ decodeLu ⟨.luStatus, .write, 0b00000101#8⟩ = .error .noOperation
      ∧ decodeLu ⟨.luCtrl, .write, 0b00000110#8⟩ = .error .noOperation
      ∧ decodeLu ⟨.luFlags, .write, 0b00000001#8⟩ = .error .noOperation := by decide

/-- 30_encoding R63's examples. -/
theorem test_addressByte :
    (addressByte 0x50 false, addressByte 0x50 true, addressByte 0x68 false, addressByte 0x00 false,
      addressByte 0x7F true) = (0xA0#8, 0xA1#8, 0xD0#8, 0x00#8, 0xFF#8) := by decide

/-- 44_register_access R160's and R162's examples. -/
theorem test_frame :
    frame 0x01A3 2 = [0x01, 0xA3] ∧ frame 0x01A3 1 = [0xA3] ∧ frame 0xFF00 1 = [0x00] ∧ frame 0x1234 2 = [0x12, 0x34] := by
  decide

/-! ### One step of each instruction -/

/-- 41_initialize R110's example: TRACE, LU_BAUD.DIV, LU_CTRL, LU_STATUS, BAUDRATE, INITED. -/
theorem test_init : ok (exec (.init 100000) ts) (fun t =>
    decide (t.trace = [.clken, .pinmux, .swrst, .mode, .baud 239, .enable]) && t.lu.div == 239 && t.lu.ctrlWord == 0x06
      && t.lu.statusWord == 0x01 && t.baudrate == 100000 && t.inited) = true := by decide

/-- 41_initialize R114 and R112, 70 R229: a second INIT, a bad rate, and a busy block are refused. -/
theorem test_init_refused :
    why (exec (.init 100000) ti) = some .alreadyInitialised ∧ why (exec (.init 90000) ts) = some .badBaud
      ∧ why (exec (.init 100000) { ts with phase := .stop }) = some .busy
      ∧ why (seqStep { ts with phase := .init, baudrate := 90000 }) = some .badBaud := by decide

/-- WRITE is launched at the error check with its operands latched and RESULT cleared (42_write R120, R121). -/
theorem test_write : ok (exec (.write 0x50 2 true) { ti with count := 7, fail := .busError }) (fun t =>
    decide (t.phase = .errchk) && t.op == 2 && t.hold && t.dev == 0x50 && t.len == 2 && t.result == 0) = true := by
  decide

/-- READ is launched at START: "no RECOVER before it" (43_read R141). -/
theorem test_read : ok (exec (.read 0x68 7) ti) (fun t =>
    decide (t.phase = .start) && t.op == 3 && !t.hold && t.dev == 0x68 && t.len == 7) = true := by decide

/-- 44_register_access R161: with ASIZE = 2 both frame bytes, with ASIZE = 1 only FR0. -/
theorem test_writeRegs :
    ok (exec (.writeRegs 0x50 0x01A3 2 3 false) ti) (fun t => t.fr0 == 0x01 && t.fr1 == 0xA3 && t.streamLen == 5) = true
      ∧ ok (exec (.writeRegs 0x50 0x01A3 1 3 false) { ti with fr1 := 0x77 }) (fun t =>
          t.fr0 == 0xA3 && t.fr1 == 0x77 && t.streamLen == 4) = true := by decide

/-- 44_register_access R169: `STAGE <- 0`, the write phase first, its stream the frame alone, held. -/
theorem test_readRegs : ok (exec (.readRegs 0x50 0x01A3 2 3) { ti with stage := true }) (fun t =>
    !t.stage && decide (t.phase = .errchk) && !t.isRead && t.holds && t.streamLen == 2) = true := by decide

/-- 30_encoding R67, R70 and 70 R225, R229: what stops a transfer command. -/
theorem test_transfer_refused :
    why (exec (.write 0x50 2 false) ts) = some .notInitialised ∧ why (exec (.read 0x50 17) ti) = some .lenTooLong
      ∧ why (exec (.writeRegs 0x50 0 3 1 false) ti) = some .badAsize
      ∧ why (exec (.readRegs 0x50 0 1 1) (tw .txwait)) = some .busy := by decide

/-- 40_line_unit_ops R80's and R81's examples. -/
theorem test_clken : ok (exec .clken ts) (fun t => t.extClken && decide (t.trace = [.clken])) = true := by decide

theorem test_pinmux : ok (exec .pinmux ((out (exec .clken ts)).getD ts)) (fun t =>
    t.extPinmux && decide (t.trace = [.clken, .pinmux])) = true := by decide

/-- R82's example: LU_STATUS 0x06 before, 0x00 after; HELD cleared, EXT_CLKEN and INITED not. -/
theorem test_swrst :
    { ti.lu with busState := .owner, busErr := true }.statusWord = 0x06
      ∧ ok (exec .swrst { ti with lu := { ti.lu with busState := .owner, busErr := true }, held := true }) (fun t =>
          t.lu.statusWord == 0x00 && !t.held && t.extClken && t.inited && t.lu.ctrlWord == 0) = true := by decide

/-- R83's example: LU_CTRL 0x00 becomes 0x04; refused once enabled. -/
theorem test_setmode :
    ok (exec .setmode { ts with extClken := true }) (fun t => t.lu.ctrlWord == 0x04) = true
      ∧ why (exec .setmode ti) = some .alreadyEnabled := by decide

/-- R84's example: SETBAUD(239) gives 0xEF. -/
theorem test_setbaud : ok (exec (.setbaud 239) { ts with extClken := true }) (fun t =>
    t.lu.div == 0xEF && decide (t.trace = [.baud 239])) = true := by decide

/-- R85's example: LU_CTRL 0x04 becomes 0x06, LU_STATUS 0x00 becomes 0x01. -/
theorem test_enable : ok (exec .enable { ts with extClken := true, lu := { ts.lu with mode := true } }) (fun t =>
    t.lu.ctrlWord == 0x06 && t.lu.statusWord == 0x01) = true := by decide

/-- R86's example: LU_STATUS 0x0A and LU_FLAGS 0x01 give (OWNER, 0, 1, 1, 0). -/
theorem test_snap :
    let u := { ti.lu with busState := BusState.owner, rxNack := true, txDone := true }
    u.statusWord = 0x0A ∧ u.flagsWord = 0x01
      ∧ ok (exec .snap { ti with lu := u }) (fun t =>
          decide (t.snap = ⟨.owner, false, true, true, false⟩) && decide (t.lu = u) && decide (t.trace = ti.trace)) = true := by
  decide

/-- R87's example: LU_STATUS 0x05 becomes 0x01. -/
theorem test_errclr : ok (exec .errclr { ti with lu := { ti.lu with busErr := true } }) (fun t =>
    t.lu.statusWord == 0x01) = true := by decide

/-- R88's example: BUSY, FORCEIDLE, then BA.IdleForced gives IDLE. -/
theorem test_forceidle : ok (exec .forceidle { ti with lu := { ti.lu with busState := .busy } }) (fun t =>
    decide (t.lu.busState = .busy) && decide ((BusMove.idleForced.apply t.lu).busState = .idle)) = true := by decide

/-- R89's examples: a fresh START from IDLE, a repeated one from OWNER. -/
theorem test_start :
    ok (exec .start { ti with trace := [] }) (fun t =>
        decide (t.lu.busState = .owner) && decide (t.trace = [.start false])) = true
      ∧ ok (exec .start { ti with trace := [], held := true, lu := { ti.lu with busState := .owner } }) (fun t =>
          !t.held && decide (t.trace = [.start true])) = true := by decide

/-- R89's corner case: START leaves BUSY as it is, and the START is a fresh one. -/
theorem test_start_busy : ok (exec .start { ti with trace := [], lu := { ti.lu with busState := .busy } }) (fun t =>
    decide (t.lu.busState = .busy) && decide (t.trace = [.start false])) = true := by decide

/-- R90's example: ADDR(0xA0) gives LU_ADDR = 0xA0, PEND = ADDRW; an odd byte is a read address. -/
theorem test_addr :
    ok (exec (.addr 0xA0) ti) (fun t => t.lu.addr == 0xA0 && decide (t.lu.pend = .addrw)) = true
      ∧ ok (exec (.addr 0xA1) ti) (fun t => decide (t.lu.pend = .addrr)) = true := by decide

/-- R91's example: TX(0x01) gives LU_DATA = 0x01, PEND = TXB. -/
theorem test_tx : ok (exec (.tx 0x01) { ti with lu := { ti.lu with txDone := true } }) (fun t =>
    t.lu.data == 0x01 && decide (t.lu.pend = .txb) && !t.lu.txDone) = true := by decide

/-- R92's example: LU_DATA = 0xDE, RX(ACK) returns 0xDE and clocks in the next byte; RX without RXRDY is refused. -/
theorem test_rx :
    ok (exec (.rx .ack) { ti with trace := [], lu := { ti.lu with data := 0xDE, rxRdy := true } }) (fun t =>
        t.rxVal == 0xDE && decide (t.trace = [.rx 0xDE .ack]) && decide (t.lu.pend = .rxb) && t.lu.cmdWord == 0x02) = true
      ∧ why (exec (.rx .ack) ti) = some .rxNotReady := by decide

/-- R92: RX(NACK) leaves nothing in flight and LU_CMD.CMD as it was. -/
theorem test_rx_nack : ok (exec (.rx .nack) { ti with lu := { ti.lu with data := 0x59, rxRdy := true } }) (fun t =>
    t.rxVal == 0x59 && decide (t.lu.pend = .none) && t.lu.cmdWord == 0x04 && !t.lu.rxRdy) = true := by decide

/-- R93's example: OWNER becomes IDLE; and its corner case: BUSY stays. -/
theorem test_stop :
    ok (exec .stop (tw .stop)) (fun t => decide (t.lu.busState = .idle) && t.lu.cmdWord == 0x03) = true
      ∧ ok (exec .stop (twLu .stop fun u => { u with busState := .busy, busErr := true })) (fun t =>
          decide (t.lu.busState = .busy) && t.lu.busErr) = true := by decide

/-- 40_line_unit_ops R94: a line-unit access without the clock, and one before ENABLE. -/
theorem test_preconditions :
    why (exec .swrst ts) = some .clockOff ∧ why (exec .start { ts with extClken := true }) = some .notEnabled := by
  decide

/-! ### The host's side -/

/-- 20_memory R43: the byte at HOST_BASE + 0x00 is CMD[7:0]; the write launches INIT. -/
theorem test_host_write_cmd : ok (hostAccess (.writeReg 0 [0x01, 0, 0, 0, 0xA0, 0x86, 0x01, 0]) ts) (fun t =>
    t.cmd == 0x000186A000000001 && t.inited) = true := by decide

/-- 10_state R12: COUNT in bits [16:0] and FAIL in bits [26:24], read little-endian. -/
theorem test_host_read_result : ok (hostAccess (.readReg 8 4) { ti with count := 0x10203, fail := .pollTimeout }) (fun t =>
    decide (t.hostOut = [0x03, 0x02, 0x01, 0x04])) = true := by decide

/-- 30_encoding R66, numbered as the table numbers it: the pattern of STOP. -/
theorem test_tableWord : decodeTableWord 8 3 = some .stop ∧ decodeTableWord 64 0x000186A000000001 = some (.init 100000) := by
  decide

/-- 20_memory R43: a descriptor's bytes are laid out little-endian, and a step takes them from the host's queue. -/
theorem test_step_runs_init : ok (step (ts.withFetchWord 64 0x000186A000000001)) (fun t =>
    t.inited && t.cmd == 0x000186A000000001) = true := by decide

/-! ### States and operands that meet the hypotheses of the statements -/

theorem wit_DecodeEncodeAgree :
    (Instr.writeRegs 0x7F 0xFFFF 1 0xFFFF true).wellFormed = true ∧ (Instr.readRegs 0 0 2 0).wellFormed = true := by
  decide

theorem wit_EncodeDecodeDescriptor : decodeCmd 0x0000FFFFFFFF7F54#64 = .ok (.writeRegs 0x7F 0xFFFF 2 0xFFFF true) := by
  decide

theorem wit_DescriptorRowsDisjoint :
    CdRow.read ∈ CdRow.all ∧ CdRow.read.admits 0x0000FFFF00007F03#64 = true ∧ CdRow.init ∈ CdRow.all
      ∧ CdRow.init.admits 0xFFFFFFFF00000001#64 = true := by decide

/-- OP at the ends of the two reserved ranges, and ASIZE at both legal values. -/
theorem wit_DescriptorLegality :
    (cdOp 0x0000000000000000#64).toNat = 0 ∧ 6 ≤ (cdOp 0x0000000000000006#64).toNat
      ∧ 6 ≤ (cdOp 0x000000000000000F#64).toNat ∧ cdAsize 0x0000000000000024#64 = 1#2
      ∧ cdAsize 0x0000000000000045#64 = 2#2 := by decide

/-- The largest and smallest legal rates of 41_initialize R112, and one whose division is exact. -/
theorem wit_BaudChecksAndDivisor :
    baudOk tp 24000000 = true ∧ baudOk tp 93749 = true ∧ 48000000 % (2 * (100000#32).toNat) = 0 := by decide

theorem wit_SclNeverSlower : baudOk tp 100000 = true ∧ tp.sysclkHz % (2 * (100000#32).toNat) = 0 := by decide

theorem wit_SclNeverFaster : baudOk tp 350000 = true := by decide

theorem wit_BringUpOperationsComplete :
    { ts with extClken := true }.extClken = true ∧ { ts with extClken := true }.lu.enable = false := by decide

theorem wit_StatusOperationsComplete : ti.extClken = true ∧ ti.lu.enable = true := by decide

/-- Each bus state from which START is stated. -/
theorem wit_StartCompletes : ∀ b ∈ [BusState.idle, .owner, .busy, .unknown],
    let s := { ti with lu := { ti.lu with busState := b } }
    s.extClken = true ∧ s.lu.enable = true ∧ s.lu.busState = b := by decide

theorem wit_AddressAndTransmitComplete :
    ti.extClken = true ∧ ti.lu.enable = true ∧ (0xA0#8).getLsbD 0 = false ∧ (0xA1#8).getLsbD 0 = true := by decide

theorem wit_ReceiveCompletes :
    let s := { ti with lu := { ti.lu with rxRdy := true } }
    s.extClken = true ∧ s.lu.enable = true ∧ s.lu.rxRdy = true := by decide

theorem wit_StopCompletes : ∀ b ∈ [BusState.owner, .idle, .busy, .unknown],
    let s := { ti with lu := { ti.lu with busState := b } }
    s.extClken = true ∧ s.lu.enable = true ∧ s.lu.busState = b := by decide

theorem wit_LineUnitPreconditions :
    ts.extClken = false ∧ Instr.isCommand .swrst = false ∧ Instr.swrst ≠ .clken ∧ Instr.swrst ≠ .pinmux
      ∧ ({ ts with extClken := true } : State).extClken = true ∧ ({ ts with extClken := true } : State).lu.enable = false
      ∧ ti.extClken = true ∧ ti.lu.enable = true ∧ ti.lu.rxRdy = false := by decide

theorem wit_LineUnitFrame :
    Instr.isCommand .clken = false ∧ (out (exec .clken ts)).isSome = true ∧ (out (exec .pinmux ts)).isSome = true
      ∧ (out (exec .snap ti)).isSome = true ∧ (out (exec .stop ti)).isSome = true := by decide

theorem wit_InitCompletes : ts.phase = .idle ∧ ts.inited = false ∧ baudOk ts.params 24000000 = true := by decide

theorem wit_TransferCommandsLaunch :
    ti.phase = .idle ∧ ti.inited = true ∧ (16#16).toNat ≤ ti.params.bufSize ∧ (0#16).toNat ≤ ti.params.bufSize := by
  decide

theorem wit_CommandsRefused :
    (tw .stop).phase ≠ .idle ∧ ts.phase = .idle ∧ ts.inited = false ∧ baudOk ts.params 0 = false ∧ ti.phase = .idle
      ∧ ti.inited = true ∧ ti.params.bufSize < (17#16).toNat ∧ asizeOk 1 = true ∧ asizeOk 2 = true ∧ asizeOk 0 = false
      ∧ asizeOk 3 = false := by decide

theorem wit_CommandFrame :
    Instr.isCommand (.init 100000) = true ∧ (out (exec (.init 100000) ts)).isSome = true
      ∧ (out (exec (.readRegs 0x50 0 1 16) ti)).isSome = true := by decide

theorem wit_HostWriteRunsCommand :
    let s := { ts with host := [.writeReg 0x00 (toBytesLE 8 (0x000186A000000001#64).toNat)] }
    s.luPort = none ∧ s.phase = .idle ∧ s.host = .writeReg 0x00 (toBytesLE 8 (0x000186A000000001#64).toNat) :: []
      ∧ decodeCmd 0x000186A000000001#64 = .ok (.init 100000) := by decide

theorem wit_PortAccessRunsOperation :
    ({ ti with luPort := some ⟨.luCmd, .readModifyWrite, 0x03⟩ } : State).luPort = some ⟨.luCmd, .readModifyWrite, 0x03⟩
      ∧ decodeLu ⟨.luCmd, .readModifyWrite, 0x03⟩ = .ok .stop := by decide

/-- A step of the sequencer that answers a next state, in every PHASE that issues an operation, and at both positions
inside ERRCHK and IDLECHK. -/
theorem wit_SequencerIssuesOperations :
    (∀ p ∈ [Phase.errchk, .idlechk, .idlewait, .start, .addr, .addrwait, .txbyte, .txwait, .rxwait, .stop],
      (tw p).luPort = none ∧ (tw p).phase = p ∧ (out (step (tw p))).isSome = true)
      ∧ (out (step { tw .errchk with act := true })).isSome = true
      ∧ (out (step { tw .idlechk with act := true })).isSome = true
      ∧ (out (step (twLu .rxbyte fun u => { u with rxRdy := true }))).isSome = true := by decide

theorem wit_IdleWaitsForHost : ts.luPort = none ∧ ts.phase = .idle ∧ ts.host = [] := by decide

theorem wit_FetchWordRuns :
    decodeTableWord 8 6 = some .enable ∧ decodeTableWord 64 0x0000000200005002 = some (.write 0x50 2 false) := by decide

theorem wit_RecoverChecks :
    (tw .errchk).extClken = true ∧ (tw .errchk).phase = .errchk ∧ (tw .errchk).act = false
      ∧ ({ tw .errchk with act := true } : State).act = true ∧ (tw .errchk).lu.enable = true
      ∧ (tw .idlechk).phase = .idlechk ∧ (tw .idlechk).act = false ∧ (tw .idlechk).lu.busState ≠ .idle
      ∧ (tw .idlechk).held = false ∧ (tw .idlewait).phase = .idlewait := by decide

/-- A write address in flight, one not acknowledged, one acknowledged with and without payload and hold, and a read
address whose first byte has come. -/
theorem wit_AddressWaitPoll :
    let s := twLu .addrwait fun u => { u with txDone := true }
    (tw .addrwait).phase = .addrwait ∧ (tw .addrwait).extClken = true ∧ (tw .addrwait).lu.txDone = false
      ∧ (tw .addrwait).isRead = false ∧ s.lu.txDone = true ∧ s.lu.rxNack = false ∧ 0 < s.streamLen
      ∧ (twLu .addrwait fun u => { u with txDone := true, rxNack := true }).lu.rxNack = true
      ∧ ({ s with arg := 0 } : State).streamLen = 0 ∧ s.holds = false ∧ ({ s with hold := true } : State).holds = true
      ∧ ({ tw .addrwait with op := 3 } : State).isRead = true ∧ 0 < (tw .addrwait).len ∧ ({ s with arg := 0 } : State).len = 0
      ∧ (twLu .addrwait fun u => { u with rxRdy := true }).lu.rxRdy = true := by decide

/-- Each test of the poll, the last byte and one before it, held and not, the last poll and one before it. -/
theorem wit_TransmitWaitPoll :
    let s := tw .txwait
    s.phase = .txwait ∧ s.extClken = true ∧ (twLu .txwait fun u => { u with busErr := true }).lu.busErr = true
      ∧ s.lu.busErr = false ∧ s.lu.txDone = false
      ∧ (twLu .txwait fun u => { u with txDone := true, rxNack := true }).lu.rxNack = true
      ∧ (s.idx + 1).toNat < s.streamLen ∧ s.streamLen ≤ (({ s with idx := 1 } : State).idx + 1).toNat ∧ s.holds = false
      ∧ ({ s with hold := true } : State).holds = true ∧ s.retry - 1 ≠ 0
      ∧ ({ s with retry := 1 } : State).retry - 1 = 0 ∧ ({ s with retry := 0 } : State).retry - 1 = 0 := by decide

theorem wit_ReceiveWaitPoll :
    let s := tw .rxwait
    s.phase = .rxwait ∧ s.extClken = true ∧ (twLu .rxwait fun u => { u with busErr := true }).lu.busErr = true
      ∧ s.lu.busErr = false ∧ s.lu.rxRdy = false ∧ (twLu .rxwait fun u => { u with rxRdy := true }).lu.rxRdy = true
      ∧ s.retry - 1 ≠ 0 ∧ ({ s with retry := 1 } : State).retry - 1 = 0 := by decide

/-- The last byte and one before it. -/
theorem wit_ReceivedByteStored :
    let s := twLu .rxbyte fun u => { u with rxRdy := true }
    s.phase = .rxbyte ∧ s.extClken = true ∧ s.lu.enable = true ∧ s.lu.rxRdy = true ∧ s.idx.toNat < s.params.bufSize
      ∧ (s.idx + 1).toNat < s.len ∧ s.len ≤ (({ s with idx := 1 } : State).idx + 1).toNat := by decide

theorem wit_StreamByteOrder :
    let s := tw .txbyte
    s.op = 2#4 ∧ s.idx.toNat < s.params.bufSize ∧ ({ s with op := 4, asize := 2, idx := 1 } : State).op = 4#4
      ∧ ({ s with op := 4, asize := 2, idx := 1 } : State).idx.toNat = 1
      ∧ ({ s with op := 5, asize := 1 } : State).asize = 1#2
      ∧ ({ s with op := 4, asize := 2, idx := 2 } : State).asize.toNat ≤ ({ s with idx := 2 } : State).idx.toNat := by
  decide

theorem wit_PhaseAndCommandEnd :
    let s := tw .stop
    s.phase = .stop ∧ s.extClken = true ∧ s.lu.enable = true ∧ s.lu.busState = .owner
      ∧ ¬(s.op = 5#4 ∧ s.stage = false)
      ∧ ({ s with op := 5 } : State).op = 5#4 ∧ ({ s with op := 5 } : State).stage = false ∧ (tw .done).phase = .done := by
  decide

/-- A running command with a failure recorded, and a launch that clears one. -/
theorem wit_FirstFailureKept :
    (out (step { tw .stop with fail := .dataNack })).isSome = true
      ∧ (out (step (({ tb with fail := .dataNack } : State).place (.cd 0x0000000200005002)))).isSome = true := by decide

theorem wit_BusErrorClearedOnlyByRecovery :
    let s := { twLu .errchk (fun u => { u with busErr := true }) with act := true }
    s.luPort = none ∧ s.lu.busErr = true ∧ ok (step s) (fun t => !t.lu.busErr) = true := by decide

/-- The poll that sees the last acknowledge of a held write. -/
theorem wit_HeldSetOnlyByHeldWrite :
    let s := { twLu .txwait (fun u => { u with txDone := true }) with hold := true, idx := 1 }
    s.held = false ∧ ok (step s) (fun t => t.held) = true := by decide

theorem wit_NothingClearsInited :
    (out (step (tw .start))).isSome = true ∧ (tw .start).inited = true ∧ (tw .start).extClken = true
      ∧ (tw .start).extPinmux = true := by decide

theorem wit_TraceOnlyGrows :
    (out (step (tw .start))).isSome = true ∧ (out (step (ts.place (.cd 0x000186A000000001)))).isSome = true := by decide

theorem wit_BufFormKept : BufOk tb ∧ (out (step { tb with host := [.writeBuf 15 9] })).isSome = true := by
  refine ⟨⟨?_, ?_⟩, ?_⟩
  · simp [tb]
  · decide
  · decide

theorem wit_CompletionFlagsKept :
    let s := twLu .txwait fun u => { u with pend := .txb }
    FlagsInv s ∧ (out (step s)).isSome = true := by
  refine ⟨⟨⟨?_, ?_⟩, ?_, ?_, ?_⟩, ?_⟩ <;> decide

theorem wit_NominalBusKept :
    let s := { twLu .txwait (fun u => { u with pend := .txb }) with agent := [[.bus (.txDone .ack)]] }
    NominalInv s ∧ EnvNominal s ∧ (out (step s)).isSome = true := by
  refine ⟨⟨by decide, by decide, fun _ => ⟨by decide, ?_⟩⟩, ?_, by decide⟩
  · exact ⟨by decide, by decide⟩
  · show ∀ m ∈ [EnvMove.bus (.txDone .ack)], EnvMove.nominal m = true
    decide

theorem wit_StallNeverEnds :
    let s := { tw .addrwait with agent := silent 3 }
    s.phase = .addrwait ∧ s.luPort = none ∧ s.extClken = true ∧ s.lu.txDone = false ∧ s.lu.rxRdy = false
      ∧ s.agent = silent 3 := by decide

theorem wit_BoundedWaitTimesOut :
    let s := { tw .txwait with agent := silent 3 }
    s.luPort = none ∧ s.extClken = true ∧ s.lu.busErr = false ∧ s.retry = 2 + 1
      ∧ (s.phase = .txwait ∧ s.lu.txDone = false ∨ s.phase = .rxwait ∧ s.lu.rxRdy = false) ∧ s.agent = silent (2 + 1) := by
  decide

theorem wit_AddressNackEndsInStop :
    let s := { twLu .addrwait (fun u => { u with txDone := true, rxNack := true }) with agent := silent 3 }
    s.phase = .addrwait ∧ s.luPort = none ∧ s.extClken = true ∧ s.lu.enable = true ∧ s.lu.txDone = true
      ∧ s.lu.rxNack = true ∧ s.lu.busState = .owner ∧ s.fail = .none ∧ s.op ≠ 5#4 ∧ s.agent = silent 3 := by decide

/-- The hypotheses of the statements about a whole command, on an idle bus. -/
def launchable (s : State) (len : BitVec 16) : Prop :=
  s.luPort = none ∧ s.phase = .idle ∧ s.inited = true ∧ s.extClken = true ∧ s.lu.enable = true
    ∧ s.lu.busErr = false ∧ s.lu.busState = .idle ∧ s.held = false ∧ len.toNat ≤ s.params.bufSize

/-- LEN at both ends. -/
theorem wit_WriteCompletesPromptly : launchable tb 0 ∧ launchable tb 16 := by
  unfold launchable; decide

theorem wit_HeldWriteCompletesPromptly : launchable tb 0 ∧ launchable tb 16 := by
  unfold launchable; decide

/-- Both address sizes. -/
theorem wit_WriteRegsCompletesPromptly :
    launchable tb 16 ∧ ((1#2 : BitVec 2) = 1#2 ∨ (1#2 : BitVec 2) = 2#2) ∧ ((2#2 : BitVec 2) = 1#2 ∨ (2#2 : BitVec 2) = 2#2) := by
  unfold launchable; decide

theorem wit_ReadCompletesPromptly_idle : launchable tb 0 ∧ launchable tb 16 := by
  unfold launchable; decide

theorem wit_ReadRegsCompletesPromptly :
    launchable tb 0 ∧ launchable tb 16 ∧ ((2#2 : BitVec 2) = 1#2 ∨ (2#2 : BitVec 2) = 2#2) := by
  unfold launchable; decide

/-- The second of READ's two bus states: held by a write before. -/
theorem wit_ReadCompletesPromptly_held :
    let s := { tw .idle with held := true }
    s.luPort = none ∧ s.phase = .idle ∧ s.inited = true ∧ s.extClken = true ∧ s.lu.enable = true ∧ s.lu.busErr = false
      ∧ s.lu.busState = .owner := by decide

/-- A WRITE of no payload whose address byte is acknowledged in the first turn. -/
def fair0 : State :=
  { tw .addrwait with
    arg := 0, agent := [[.bus (.txDone .ack)], [], []], lu := { (tw .addrwait).lu with pend := .addrw } }

/-- The run from there; a stop would repeat the state. -/
def fairRun : Nat → State
  | 0 => fair0
  | n + 1 => (out (step (fairRun n))).getD (fairRun n)

/-- What the run is from its third state on: at IDLE, nothing placed, nothing in flight, no force asked for. -/
def settled (s : State) : Prop :=
  s.luPort = none ∧ s.phase = .idle ∧ s.host = [] ∧ s.lu.pend = .none ∧ s.lu.idleReq = false

/-- No move among R96 to R99 is enabled with nothing in flight, so the environment leaves it so. -/
theorem settled_envTurn {s : State} (h : settled s) : settled (envTurn s) := by
  refine envTurn_induct (P := settled) ?_ (fun _ _ _ h => h) h
  intro m _ u hu
  obtain ⟨b, rfl, e⟩ | ⟨rfl, c, hh, e⟩ := m.apply_cases u
  · obtain ⟨h₁, h₂, h₃, h₄, h₅⟩ := hu
    rw [e]
    refine ⟨h₁, h₂, h₃, ?_, ?_⟩ <;> simp only [setLu_lu, BusMove.apply] <;> split
    all_goals
      cases b with
      | addrRead k => cases k <;> simp_all [BusMove.enabled]
      | _ => simp_all [BusMove.enabled, BusMove.effect]
  · rw [e]; exact hu

theorem settled_step {s : State} (h : settled s) : step s = .next (envTurn s) := by
  obtain ⟨h₁, h₂, h₃, -, -⟩ := h
  simp [step, fetchStep, h₁, h₂, h₃]

theorem fairRun_settled (n : Nat) : settled (fairRun (n + 3)) := by
  induction n with
  | zero => exact ⟨by decide, by decide, by decide, by decide, by decide⟩
  | succ n ih =>
    show settled ((out (step (fairRun (n + 3)))).getD (fairRun (n + 3)))
    rw [settled_step ih]
    exact settled_envTurn ih

/-- A fair infinite run whose address wait has its byte in flight. -/
theorem wit_FairAddressWaitEnds :
    IsRun fairRun ∧ EnvFair fairRun ∧ (fairRun 0).luPort = none ∧ (fairRun 0).phase = .addrwait
      ∧ (fairRun 0).isRead = false ∧ (fairRun 0).extClken = true ∧ (fairRun 0).lu.enable = true
      ∧ (fairRun 0).lu.pend = .addrw := by
  refine ⟨fun n => ?_, fun c n h => ?_, by decide, by decide, by decide, by decide, by decide, by decide⟩
  · match n with
    | 0 => rfl
    | 1 => rfl
    | 2 => rfl
    | n + 3 =>
      show step (fairRun (n + 3)) = .next ((out (step (fairRun (n + 3)))).getD (fairRun (n + 3)))
      rw [settled_step (fairRun_settled n)]
      rfl
  · obtain ⟨-, -, -, h₄, h₅⟩ := fairRun_settled n
    have := h (n + 3) (by omega)
    cases c <;> simp [MoveClass.enabled, BusMove.enabled, h₄, h₅] at this

theorem wit_HostRegisterAccess :
    ti.phase = .idle ∧ (tw .stop).phase ≠ .idle ∧ ¬((0x00 : Nat) = 0x00 ∧ (4 : Nat) = 8)
      ∧ ¬((0x08 : Nat) = 0x08 ∧ (8 : Nat) = 4) := by decide

theorem wit_BufReadAfterWrite :
    ti.phase = .idle ∧ 15 < ti.params.bufSize ∧ ti.params.bufSize ≤ 16 := by decide

theorem wit_BusAgentMoves : ts.lu.enable = false ∧ ti.lu.enable = true := by decide

/-- A half period of 240 cycles, and the shortest. -/
theorem wit_DividerHalfPeriod :
    ({ ti with divCnt := 239 } : State).extClken = true ∧ ({ ti with divCnt := 239 } : State).divCnt = ti.lu.div
      ∧ ({ ts with extClken := true } : State).divCnt = ts.lu.div := by decide

theorem wit_BlocksIndependent :
    let p : Platform := ⟨[tb, { tb with params := { tp with inst := 1 } }]⟩
    p.complete = true ∧ (Platform.mk [tb, tb]).apart = false
      ∧ (Platform.mk [tb]).apart = true ∧ (Platform.mk [tb]).complete = false ∧ p.blocks[1]?.isSome = true
      ∧ (match Platform.step p 0 with | .next _ => true | .fault _ => false | .refused _ => false) = true := by decide

end Sys2Proof.Machine
end

section
/-! PROOF. No step changes a block's parameters (10_state R33), so a complete platform stays complete. -/

namespace Sys2Proof.Machine

/-! ### Parameters -/

theorem Kept.params_eq {s t : State} (h : Kept s t) : t.params = s.params := by
  obtain ⟨_, _, _, _, _, _, _, _, rfl⟩ := h; rfl

theorem bringUp_params {s t : State} (h : bringUp s = .next t) : t.params = s.params := by
  rw [bringUp_eq] at h; cases h; rfl

theorem exec_params {i : Instr} {s t : State} (h : exec i s = .next t) : t.params = s.params := by
  cases hi : i.isCommand with
  | false => obtain ⟨_, _, _, _, _, _, _, rfl⟩ := exec_lu_shape hi h; rfl
  | true =>
    by_cases hb : ∃ baud, i = .init baud
    · obtain ⟨baud, rfl⟩ := hb
      obtain ⟨-, -, -, h⟩ := init_inv h
      exact (bringUp_params h).trans rfl
    · obtain ⟨-, -, -, -, _, _, _, _, _, _, _, _, _, _, rfl⟩ :=
        transfer_inv hi (fun baud e => hb ⟨baud, e⟩) h
      rfl

theorem seqStep_params {s t : State} (h : seqStep s = .next t) : t.params = s.params := by
  obtain ⟨-, rfl⟩ | ⟨-, -, h⟩ | ⟨-, rfl⟩ | ⟨i, u, -, hu, ⟨-, hk⟩ | ⟨-, -, hk⟩⟩ := seqStep_cases h
  · rfl
  · exact bringUp_params h
  · rfl
  · exact hk.params_eq.trans (exec_params hu)
  · exact (hk.params_eq.trans (setBuf_params _ _)).trans (exec_params hu)

theorem hostAccess_params {a : HostAct} {s t : State} (h : hostAccess a s = .next t) : t.params = s.params := by
  obtain ⟨-, ⟨d, i, -, h⟩ | ⟨_, rfl⟩ | ⟨_, _, -, rfl⟩⟩ := hostAccess_cases h
  · exact (exec_params h).trans (setCmd_params _ _)
  · rfl
  · rfl

/-- A step keeps the parameters, whichever of the four sources it runs. -/
theorem step_params {s t : State} (h : step s = .next t) : t.params = s.params := by
  rw [← envTurn_params s]
  obtain ⟨a, -, h⟩ | ⟨-, -, -, rfl⟩ | ⟨a, rest, -, -, -, h⟩ | ⟨-, -, h⟩ := step_cases h
  · obtain ⟨i, -, h⟩ := accessLu_cases h
    exact (exec_params h).trans (setPort_params _ _)
  · rfl
  · exact (hostAccess_params h).trans (setHost_params _ _)
  · exact seqStep_params h

/-! ### Complete platforms -/

theorem Platform.apart_of_complete {p : Platform} (h : p.complete = true) : p.apart = true := by
  obtain ⟨-, hinst, -⟩ := Platform.complete_iff.mp h
  simp [Platform.apart, hinst, List.nodup_range]

theorem Platform.params_of_complete {p : Platform} {k : Nat} {s : State} (h : p.complete = true)
    (hk : p.blocks[k]? = some s) : s.params.inst = k ∧ s.params.nInst = p.blocks.length := by
  obtain ⟨-, hinst, hn⟩ := Platform.complete_iff.mp h
  refine ⟨?_, hn s (List.mem_of_getElem? hk)⟩
  obtain ⟨hlt, -⟩ := List.getElem?_eq_some_iff.mp hk
  have hat := congrArg (·[k]?) hinst
  simpa [hk, List.getElem?_range hlt] using hat

/-- Whether a platform is complete depends on its blocks' parameters alone. -/
theorem Platform.complete_of_params_eq {p q : Platform} (e : q.blocks.map (·.params) = p.blocks.map (·.params))
    (h : p.complete = true) : q.complete = true := by
  have hlen : q.blocks.length = p.blocks.length := by simpa using congrArg List.length e
  obtain ⟨hpos, hinst, hn⟩ := Platform.complete_iff.mp h
  refine Platform.complete_iff.mpr ⟨hlen ▸ hpos, ?_, fun s hs => ?_⟩
  · rw [hlen, ← hinst]
    simpa [Function.comp_def] using congrArg (List.map Params.inst) e
  · have hmem : s.params ∈ p.blocks.map (·.params) := e ▸ List.mem_map_of_mem hs
    obtain ⟨r, hr, hrs⟩ := List.mem_map.mp hmem
    rw [hlen, ← hrs, hn r hr]

/-! ### A step of one block -/

theorem Platform.step_of_not_apart {p : Platform} (h : p.apart = false) (k : Nat) :
    p.step k = .refused .sharedInstance := by simp [Platform.step, h]

theorem Platform.step_of_not_complete {p : Platform} (ha : p.apart = true) (h : p.complete = false) (k : Nat) :
    p.step k = .refused .incompletePlatform := by simp [Platform.step, ha, h]

/-- A block of a complete platform steps as it does alone. -/
theorem Platform.step_of_block {p : Platform} {k : Nat} {s t : State} (h : p.complete = true)
    (hk : p.blocks[k]? = some s) (hs : Sys2Proof.Machine.step s = .next t) :
    p.step k = .next ⟨p.blocks.set k t⟩ :=
  Platform.step_eq_next.mpr ⟨Platform.apart_of_complete h, h, .inr ⟨s, t, hk, hs, rfl⟩⟩

theorem Platform.step_other {p q : Platform} {k j : Nat} (h : p.step k = .next q) (hj : j ≠ k) :
    q.blocks[j]? = p.blocks[j]? := by
  obtain ⟨-, -, ⟨-, rfl⟩ | ⟨s, t, -, -, rfl⟩⟩ := Platform.step_eq_next.mp h
  · rfl
  · exact List.getElem?_set_ne hj.symm

theorem Platform.step_params {p q : Platform} {k : Nat} (h : p.step k = .next q) :
    q.blocks.map (·.params) = p.blocks.map (·.params) := by
  obtain ⟨-, -, ⟨-, rfl⟩ | ⟨s, t, hk, hs, rfl⟩⟩ := Platform.step_eq_next.mp h
  · rfl
  · obtain ⟨hlt, rfl⟩ := List.getElem?_eq_some_iff.mp hk
    rw [List.map_set, Sys2Proof.Machine.step_params hs, ← List.map_set, List.set_getElem_self]

theorem Platform.step_keeps_complete {p q : Platform} {k : Nat} (h : p.step k = .next q) :
    q.complete = true ∧ q.blocks.length = p.blocks.length := by
  obtain ⟨-, hc, -⟩ := Platform.step_eq_next.mp h
  have e := Platform.step_params h
  exact ⟨Platform.complete_of_params_eq e hc, by simpa using congrArg List.length e⟩

/-! ### Power-on reset -/

theorem Platform.powerOn_other (p : Platform) {k j : Nat} (hj : j ≠ k) :
    (p.powerOn k).blocks[j]? = p.blocks[j]? := by
  simp [Platform.powerOn, hj.symm]

theorem Platform.powerOn_params (p : Platform) (k : Nat) :
    (p.powerOn k).blocks.map (·.params) = p.blocks.map (·.params) := by
  refine List.ext_getElem (by simp [Platform.powerOn]) fun j _ _ => ?_
  by_cases hj : k = j <;> simp [Platform.powerOn, hj]

theorem Platform.reset_length : Platform.reset.blocks.length = Config.nInstances := by simp [Platform.reset]

theorem Platform.reset_block {k : Nat} (h : k < Config.nInstances) :
    Platform.reset.blocks[k]? = some (Platform.resetBlock k) := by
  simp [Platform.reset, List.getElem?_range h]

theorem Platform.reset_complete : Platform.reset.complete = true := by
  refine Platform.complete_iff.mpr ⟨?_, ?_, fun s hs => ?_⟩
  · exact Platform.reset_length ▸ Nat.succ_pos Config.nInstPred
  · rw [Platform.reset_length]
    simp [Platform.reset, Function.comp_def, Config.paramsOf]
  · obtain ⟨k, -, rfl⟩ := List.mem_map.mp hs
    exact Platform.reset_length.symm

/-- The block that `State.reset` describes is the one of its own INSTANCE. -/
theorem Platform.reset_mem : State.reset ∈ Platform.reset.blocks :=
  List.mem_map.mpr
    ⟨Config.instRaw % Config.nInstances, List.mem_range.mpr (Nat.mod_lt _ (Nat.succ_pos Config.nInstPred)), rfl⟩

/-- Settles O60: a platform's completeness is about its blocks' parameters, which no step and no power-on reset
changes. -/
theorem blocksIndependent : Obligations.BlocksIndependent := by
  intro p q k j
  refine ⟨Platform.step_other, (Platform.step_of_not_apart · k),
    fun ha hc => Platform.step_of_not_complete ha hc k, fun hc => ?_, Platform.powerOn_other p,
    Platform.reset_complete, Platform.reset_length, Platform.reset_block, Platform.reset_mem⟩
  exact ⟨Platform.apart_of_complete hc, fun _ => Platform.params_of_complete hc,
    fun _ _ => Platform.step_of_block hc, Platform.step_keeps_complete,
    Platform.complete_of_params_eq (Platform.powerOn_params p k) hc⟩

end Sys2Proof.Machine
end

section
/-! PROOF. What no step undoes: INITED and the external bits are never cleared (10_state R18, R28), TRACE is only
appended to (R27), BUF stays in canonical form and in range (R29). `Advances` says this of one part of a step, and
composes; a step is the environment's turn, then a host access, an operation or both an operation and bookkeeping. -/

namespace Sys2Proof.Machine

/-- A line-unit operation adds at most one event, clears neither external bit and never raises HELD. -/
theorem exec_lu_effect {i : Instr} {s t : State} (hi : i.isCommand = false) (h : exec i s = .next t) :
    (s.extClken = true → t.extClken = true) ∧ (s.extPinmux = true → t.extPinmux = true) ∧
      (t.held = true → s.held = true) ∧ ∃ es : List Event, t.trace = s.trace ++ es ∧ es.length ≤ 1 := by
  cases i with
  | init => cases hi
  | write => cases hi
  | read => cases hi
  | writeRegs => cases hi
  | readRegs => cases hi
  | clken => cases h; exact ⟨fun _ => rfl, id, id, [_], rfl, le_rfl⟩
  | pinmux => cases h; exact ⟨id, fun _ => rfl, id, [_], rfl, le_rfl⟩
  | swrst =>
    obtain ⟨-, h⟩ := whenClocked_eq_next.mp h; cases h
    exact ⟨id, id, nofun, [_], rfl, le_rfl⟩
  | setmode =>
    obtain ⟨-, -, h⟩ := whenDisabled_eq_next.mp h; cases h
    exact ⟨id, id, id, [_], rfl, le_rfl⟩
  | setbaud d =>
    obtain ⟨-, -, h⟩ := whenDisabled_eq_next.mp h; cases h
    exact ⟨id, id, id, [_], rfl, le_rfl⟩
  | enable =>
    obtain ⟨-, h⟩ := whenClocked_eq_next.mp h; cases h
    exact ⟨id, id, id, [_], rfl, le_rfl⟩
  | snap =>
    obtain ⟨-, rfl⟩ := snap_inv h
    exact ⟨id, id, id, [], (List.append_nil _).symm, Nat.zero_le 1⟩
  | errclr => obtain ⟨-, -, rfl⟩ := errclr_inv h; exact ⟨id, id, id, [_], rfl, le_rfl⟩
  | forceidle => obtain ⟨-, -, rfl⟩ := forceidle_inv h; exact ⟨id, id, id, [_], rfl, le_rfl⟩
  | start => obtain ⟨-, -, rfl⟩ := start_inv h; exact ⟨id, id, nofun, [_], rfl, le_rfl⟩
  | addr b => obtain ⟨-, -, rfl⟩ := addr_inv h; exact ⟨id, id, id, [_], rfl, le_rfl⟩
  | tx b => obtain ⟨-, -, rfl⟩ := tx_inv h; exact ⟨id, id, id, [_], rfl, le_rfl⟩
  | rx a => obtain ⟨-, -, -, rfl⟩ := rx_inv h; exact ⟨id, id, id, [_], rfl, le_rfl⟩
  | stop => obtain ⟨-, -, rfl⟩ := stop_inv h; exact ⟨id, id, nofun, [_], rfl, le_rfl⟩

/-! ### BUF -/

theorem BufOk.congr {s t : State} (hp : t.params = s.params) (hb : t.buf = s.buf) (h : BufOk s) : BufOk t := by
  unfold BufOk
  rw [hp, hb]
  exact h

/-- A write below BUF_SIZE keeps BUF in canonical form and in range. -/
theorem BufOk.put {s : State} (h : BufOk s) {i : Nat} (hi : i < s.params.bufSize) (v : Byte) :
    BufOk (s.setBuf (Memory.put s.buf i v)) := by
  obtain ⟨hwf, hlt⟩ := h
  refine ⟨Memory.wf_put hwf i v, fun c hc => ?_⟩
  rcases Memory.mem_put hc with rfl | hc
  · exact hi
  · exact hlt c hc

/-! ### Parts of a step -/

/-- From `s` to `t` nothing is undone, nothing is placed on the port and `n` events are added to TRACE. -/
structure Advances (n : Nat) (s t : State) : Prop where
  inited : s.inited = true → t.inited = true
  extClken : s.extClken = true → t.extClken = true
  extPinmux : s.extPinmux = true → t.extPinmux = true
  buf : BufOk s → BufOk t
  port : s.luPort = none → t.luPort = none
  trace : ∃ es : List Event, t.trace = s.trace ++ es ∧ es.length = n

theorem Advances.trans {n m : Nat} {s t u : State} (h : Advances n s t) (h' : Advances m t u) :
    Advances (n + m) s u := by
  obtain ⟨es, he, hn⟩ := h.trace
  obtain ⟨es', he', hm⟩ := h'.trace
  refine ⟨h'.inited ∘ h.inited, h'.extClken ∘ h.extClken, h'.extPinmux ∘ h.extPinmux, h'.buf ∘ h.buf,
    h'.port ∘ h.port, es ++ es', ?_, by simp [hn, hm]⟩
  rw [he', he, List.append_assoc]

/-- A part of a step that only prepares an operation adds nothing to it. -/
theorem Advances.preceded {n : Nat} {s t u : State} (h : Advances n t u) (h' : Advances 0 s t) : Advances n s u :=
  Nat.zero_add n ▸ h'.trans h

/-- A change of other fields alone. -/
theorem advances_of_same {s t : State} (hp : t.params = s.params) (hi : t.inited = s.inited)
    (hc : t.extClken = s.extClken) (hx : t.extPinmux = s.extPinmux) (hb : t.buf = s.buf)
    (hl : t.luPort = s.luPort) (ht : t.trace = s.trace) : Advances 0 s t :=
  ⟨fun h => hi.trans h, fun h => hc.trans h, fun h => hx.trans h, BufOk.congr hp hb, fun h => hl.trans h, [],
    by simp [ht], rfl⟩

theorem advances_setPort_none (s : State) : Advances 0 s (s.setPort none) :=
  ⟨id, id, id, BufOk.congr rfl rfl, fun _ => rfl, [], by simp, rfl⟩

theorem advances_envTurn (s : State) : Advances 0 s (envTurn s) :=
  advances_of_same (by simp) (by simp) (by simp) (by simp) (by simp) (by simp) (by simp)

theorem advances_setBuf_put {s : State} {i : Nat} (hi : i < s.params.bufSize) (v : Byte) :
    Advances 0 s (s.setBuf (Memory.put s.buf i v)) :=
  ⟨id, id, id, fun h => h.put hi v, id, [], by simp, rfl⟩

theorem Kept.advances {s t : State} (h : Kept s t) : Advances 0 s t := by
  obtain ⟨_, _, _, _, _, _, _, _, rfl⟩ := h
  exact advances_of_same rfl rfl rfl rfl rfl rfl rfl

theorem bringUp_advances {s t : State} (h : bringUp s = .next t) :
    Advances 6 s t ∧ t.inited = true ∧ t.phase = .idle := by
  rw [bringUp_eq] at h
  cases h
  exact ⟨⟨fun _ => rfl, fun _ => rfl, fun _ => rfl, BufOk.congr rfl rfl, id, _, rfl, rfl⟩, rfl, rfl⟩

theorem exec_lu_advances {i : Instr} {s t : State} (hi : i.isCommand = false) (h : exec i s = .next t) :
    ∃ n, Advances n s t ∧ n ≤ 1 := by
  obtain ⟨hc, hx, -, es, ht, hn⟩ := exec_lu_effect hi h
  obtain ⟨_, _, _, _, _, _, _, rfl⟩ := exec_lu_shape hi h
  exact ⟨es.length, ⟨id, hc, hx, BufOk.congr rfl rfl, id, es, ht, rfl⟩, hn⟩

/-- A command adds the six events of INIT, and ends it, or none. -/
theorem exec_command_advances {i : Instr} {s t : State} (hi : i.isCommand = true) (h : exec i s = .next t) :
    Advances 0 s t ∨ (Advances 6 s t ∧ t.inited = true ∧ t.phase = .idle) := by
  by_cases hb : ∃ baud, i = .init baud
  · obtain ⟨baud, rfl⟩ := hb
    obtain ⟨-, -, -, h⟩ := init_inv h
    obtain ⟨ha, hend⟩ := bringUp_advances h
    exact .inr ⟨ha.preceded (advances_of_same rfl rfl rfl rfl rfl rfl rfl), hend⟩
  · obtain ⟨-, -, -, -, _, _, _, _, _, _, _, _, _, _, rfl⟩ := transfer_inv hi (fun baud e => hb ⟨baud, e⟩) h
    exact .inl (advances_of_same rfl rfl rfl rfl rfl rfl rfl)

/-! ### The step -/

/-- At most one event, or the six of INIT, which is then over. -/
def StepAdvances (s t : State) : Prop :=
  ∃ n, Advances n s t ∧ (n ≤ 1 ∨ (n = 6 ∧ t.inited = true ∧ t.phase = .idle))

theorem StepAdvances.preceded {s t u : State} (h : StepAdvances t u) (h' : Advances 0 s t) :
    StepAdvances s u := by
  obtain ⟨n, ha, hn⟩ := h
  exact ⟨n, ha.preceded h', hn⟩

theorem StepAdvances.of_zero {s t : State} (h : Advances 0 s t) : StepAdvances s t := ⟨0, h, .inl (Nat.zero_le 1)⟩

theorem hostAccess_advances {a : HostAct} {s t : State} (h : hostAccess a s = .next t) : StepAdvances s t := by
  obtain ⟨-, ⟨d, i, hd, h⟩ | ⟨_, rfl⟩ | ⟨_, _, hlt, rfl⟩⟩ := hostAccess_cases h
  · refine StepAdvances.preceded ?_ (advances_of_same rfl rfl rfl rfl rfl rfl rfl : Advances 0 s (s.setCmd d))
    obtain ha | ⟨ha, hend⟩ := exec_command_advances (decodeCmd_isCommand hd) h
    · exact .of_zero ha
    · exact ⟨6, ha, .inr ⟨rfl, hend⟩⟩
  · exact .of_zero (advances_of_same rfl rfl rfl rfl rfl rfl rfl)
  · exact .of_zero (advances_setBuf_put hlt _)

/-- The operation a PHASE names is none of the five commands. -/
theorem seqOp_isCommand {s : State} {i : Instr} (h : seqOp s = some i) : i.isCommand = false := by
  unfold seqOp at h
  cases hp : s.phase <;> simp only [hp, reduceCtorEq, Option.some.injEq] at h
  case errchk => subst h; split <;> rfl
  case idlechk => subst h; split <;> rfl
  case txbyte => split at h <;> cases h; rfl
  all_goals subst h; rfl

theorem seqStep_advances {s t : State} (h : seqStep s = .next t) : StepAdvances s t := by
  obtain ⟨-, rfl⟩ | ⟨-, -, h⟩ | ⟨-, rfl⟩ | ⟨i, u, hi, hu, hk⟩ := seqStep_cases h
  · exact .of_zero (advances_of_same rfl rfl rfl rfl rfl rfl rfl)
  · obtain ⟨ha, hend⟩ := bringUp_advances h
    exact ⟨6, ha, .inr ⟨rfl, hend⟩⟩
  · exact .of_zero (advances_of_same rfl rfl rfl rfl rfl rfl rfl)
  · obtain ⟨n, ha, hn⟩ := exec_lu_advances (seqOp_isCommand hi) hu
    obtain ⟨-, hk⟩ | ⟨-, hlt, hk⟩ := hk
    · exact ⟨n, ha.trans hk.advances, .inl hn⟩
    · exact ⟨n, ha.trans ((advances_setBuf_put hlt _).trans hk.advances), .inl hn⟩

theorem step_advances {s t : State} (h : step s = .next t) : StepAdvances s t := by
  refine StepAdvances.preceded ?_ (advances_envTurn s)
  obtain ⟨a, -, h⟩ | ⟨-, -, -, rfl⟩ | ⟨a, rest, -, -, -, h⟩ | ⟨-, -, h⟩ := step_cases h
  · obtain ⟨i, hi, h⟩ := accessLu_cases h
    obtain ⟨n, ha, hn⟩ := exec_lu_advances (decodeLu_isCommand hi) h
    exact ⟨n, ha.preceded (advances_setPort_none _), .inl hn⟩
  · exact .of_zero (advances_of_same rfl rfl rfl rfl rfl rfl rfl)
  · exact (hostAccess_advances h).preceded (advances_of_same rfl rfl rfl rfl rfl rfl rfl)
  · exact seqStep_advances h

/-! ### The obligations -/

/-- Settles O40: BUF is written only by `Memory.put` below BUF_SIZE. -/
theorem bufFormKept : Obligations.BufFormKept := by
  intro s t hs h
  obtain ⟨n, ha, -⟩ := step_advances h
  exact ha.buf hs

/-- Settles O38: no part of a step clears the bits, and none writes the parameters. -/
theorem nothingClearsInited : Obligations.NothingClearsInited := by
  intro s t h
  obtain ⟨n, ha, -⟩ := step_advances h
  exact ⟨ha.inited, ha.extClken, ha.extPinmux, step_params h⟩

/-- Settles O39: a step issues one line-unit operation at most, but for INIT's six. -/
theorem traceOnlyGrows : Obligations.TraceOnlyGrows := by
  intro s t h
  obtain ⟨n, ha, hn⟩ := step_advances h
  obtain ⟨es, he, rfl⟩ := ha.trace
  exact ⟨es, he, hn⟩

end Sys2Proof.Machine
end

section
/-! PROOF. The sequencer's step written out by PHASE (10_state R14): what it reads, what each test and each loop head
does, what the state is after each PHASE, and which PHASE can follow which. -/

namespace Sys2Proof.Machine

/-! ### What the sequencer reads is not the environment's to change -/

@[simp] theorem envTurn_len (s : State) : (envTurn s).len = s.len := by simp [State.len]

@[simp] theorem envTurn_isRead (s : State) : (envTurn s).isRead = s.isRead := by simp [State.isRead]

@[simp] theorem envTurn_holds (s : State) : (envTurn s).holds = s.holds := by simp [State.holds]

@[simp] theorem envTurn_frameLen (s : State) : (envTurn s).frameLen = s.frameLen := by
  simp [State.frameLen, State.isFramed]

@[simp] theorem envTurn_streamLen (s : State) : (envTurn s).streamLen = s.streamLen := by simp [State.streamLen]

@[simp] theorem envTurn_bufByte (s : State) (j : Nat) : (envTurn s).bufByte j = s.bufByte j := by
  simp [State.bufByte]

@[simp] theorem envTurn_streamByte (s : State) : streamByte (envTurn s) = streamByte s := by
  simp [streamByte, readBuf]

@[simp] theorem seqOp_envTurn (s : State) : seqOp (envTurn s) = seqOp s := by
  simp [seqOp, rxAck]

/-! ### The tests and the loop heads -/

theorem Kept.lu_eq {s t : State} (h : Kept s t) : t.lu = s.lu := by
  obtain ⟨_, _, _, _, _, _, _, _, rfl⟩ := h; rfl

theorem Kept.trace_eq {s t : State} (h : Kept s t) : t.trace = s.trace := by
  obtain ⟨_, _, _, _, _, _, _, _, rfl⟩ := h; rfl

@[simp] theorem startWait_phase (s : State) (p : Phase) : (startWait s p).phase = p := rfl
@[simp] theorem startWait_retry (s : State) (p : Phase) : (startWait s p).retry = s.params.retryBudget := rfl
@[simp] theorem startWait_held (s : State) (p : Phase) : (startWait s p).held = s.held := rfl
@[simp] theorem startWait_lu (s : State) (p : Phase) : (startWait s p).lu = s.lu := rfl

/-- The write loop goes on with the next byte, ends held (42_write R123), or ends by STOP. -/
theorem writeLoop_cases (s : State) :
    writeLoop s = s.setPhase .txbyte ∨
    (s.holds = true ∧ s.streamLen ≤ s.idx.toNat ∧ writeLoop s = afterPhase ((s.setHeld true).setRet s.idx)) ∨
    writeLoop s = endWithStop s s.idx := by
  unfold writeLoop
  split
  · exact .inl rfl
  · next hlt =>
    split
    · next hh => exact .inr (.inl ⟨hh, Nat.le_of_not_lt hlt, rfl⟩)
    · exact .inr (.inr rfl)

theorem readLoop_cases (s : State) : readLoop s = startWait s .rxwait ∨ readLoop s = endWithStop s s.idx := by
  unfold readLoop
  split
  · exact .inl rfl
  · exact .inr rfl

theorem countPoll_cases (s : State) :
    countPoll s = s.setRetry (s.retry - 1) ∨ countPoll s = failLoop (s.setRetry (s.retry - 1)) .pollTimeout := by
  unfold countPoll
  split
  · exact .inr rfl
  · exact .inl rfl

@[simp] theorem countPoll_held (s : State) : (countPoll s).held = s.held := by
  obtain e | e := countPoll_cases s <;> simp [e]

theorem testErrchk_cases (s : State) : testErrchk s = s.setAct true ∨ testErrchk s = s.setPhase .idlechk := by
  unfold testErrchk
  split
  · exact .inl rfl
  · exact .inr rfl

theorem testIdlechk_cases (s : State) :
    (s.snap.busState ≠ .idle ∧ s.held = false ∧ testIdlechk s = s.setAct true) ∨
    ((s.snap.busState = .idle ∨ s.held = true) ∧ testIdlechk s = s.setPhase .start) := by
  unfold testIdlechk
  split
  · next h => simp_all
  · next h =>
    refine .inr ⟨?_, rfl⟩
    by_cases hi : s.snap.busState = .idle
    · exact .inl hi
    · exact .inr (by simpa [hi] using h)

theorem testIdlewait_cases (s : State) : testIdlewait s = s ∨ testIdlewait s = s.setPhase .start := by
  unfold testIdlewait
  split
  · exact .inr rfl
  · exact .inl rfl

/-- The poll of WaitAddrW that says ACK saw the byte complete and acknowledged. -/
theorem waitAddrW_eq_ack {p : Snapshot} (h : waitAddrW p = .ack) : p.txDone = true ∧ p.rxNack = false := by
  unfold waitAddrW Snapshot.answer at h
  split at h <;> simp_all

theorem waitTx_eq_ack {p : Snapshot} (h : waitTx p = .ack) : p.txDone = true ∧ p.rxNack = false := by
  unfold waitTx at h
  split at h
  · cases h
  · exact waitAddrW_eq_ack h

/-- The address wait polls again, fails, or enters its data loop at IDX = 0. -/
theorem testAddrwait_cases (s : State) :
    testAddrwait s = s ∨ testAddrwait s = failAddr s ∨ testAddrwait s = readLoop (s.setIdx 0) ∨
    (s.isRead = false ∧ s.snap.txDone = true ∧ s.snap.rxNack = false ∧
      testAddrwait s = writeLoop (s.setIdx 0)) := by
  unfold testAddrwait
  split
  · next h =>
    cases hr : s.isRead with
    | true => exact .inr (.inr (.inl (if_pos rfl)))
    | false =>
      rw [hr] at h
      obtain ⟨hd, hn⟩ := waitAddrW_eq_ack h
      exact .inr (.inr (.inr ⟨rfl, hd, hn, if_neg Bool.false_ne_true⟩))
  · exact .inr (.inl rfl)
  · exact .inl rfl
  · exact .inl rfl

/-- The data wait of a write polls again, fails, or goes back to the head of the loop. -/
theorem testTxwait_cases (s : State) :
    (∃ f, testTxwait s = failLoop s f) ∨ testTxwait s = countPoll s ∨
    (s.snap.txDone = true ∧ s.snap.rxNack = false ∧ testTxwait s = writeLoop (s.setIdx (s.idx + 1))) := by
  unfold testTxwait
  split
  · next h =>
    obtain ⟨hd, hn⟩ := waitTx_eq_ack h
    exact .inr (.inr ⟨hd, hn, rfl⟩)
  · exact .inl ⟨_, rfl⟩
  · exact .inl ⟨_, rfl⟩
  · exact .inr (.inl rfl)

/-- The data wait of a read goes to RXBYTE, stays (no answer of WaitRx makes it), fails, or polls again. -/
theorem testRxwait_cases (s : State) :
    testRxwait s = s.setPhase .rxbyte ∨ testRxwait s = s ∨ (∃ f, testRxwait s = failLoop s f) ∨
    testRxwait s = countPoll s := by
  unfold testRxwait
  split
  · exact .inl rfl
  · exact .inr (.inl rfl)
  · exact .inr (.inr (.inl ⟨_, rfl⟩))
  · exact .inr (.inr (.inr rfl))

/-- ADDR is issued at PHASE = ADDR only. -/
theorem phase_of_seqOp_addr {s : State} {b : Byte} (h : seqOp s = some (.addr b)) : s.phase = .addr := by
  unfold seqOp at h
  cases hp : s.phase <;> simp only [hp, reduceCtorEq, Option.some.injEq] at h ⊢
  case errchk => split at h <;> cases h
  case idlechk => split at h <;> cases h
  case txbyte => split at h <;> cases h

/-! ### The state after each PHASE -/

/-- A step that issues SNAP tests the snapshot of the line unit as it is. -/
theorem issue_snap_inv {s t : State} {f : State → State} (h : issue .snap s (fun u => .next (f u)) = .next t) :
    t = f (s.setSnap s.lu.snapshot) := by
  obtain ⟨u, hu, e⟩ := issue_eq_next.mp h
  obtain ⟨-, rfl⟩ := snap_inv hu
  cases e
  rfl

theorem seqStep_errchk {s t : State} (hp : s.phase = .errchk) (h : seqStep s = .next t) :
    t = (((s.setLu { s.lu with busErr := false }).emit .errclr).setAct false).setPhase .idlechk ∨
    (s.act = false ∧ t = testErrchk (s.setSnap s.lu.snapshot)) := by
  simp only [seqStep, hp] at h
  split at h
  · obtain ⟨u, hu, e⟩ := issue_eq_next.mp h
    obtain ⟨-, -, rfl⟩ := errclr_inv hu
    cases e
    exact .inl rfl
  · next ha => exact .inr ⟨Bool.eq_false_iff.mpr ha, issue_snap_inv h⟩

theorem seqStep_idlechk {s t : State} (hp : s.phase = .idlechk) (h : seqStep s = .next t) :
    (s.act = true ∧ t = (((s.setLu { s.lu with idleReq := true }).emit .forceidle).setAct false).setPhase .idlewait) ∨
    (s.act = false ∧ t = testIdlechk (s.setSnap s.lu.snapshot)) := by
  simp only [seqStep, hp] at h
  split at h
  · next ha =>
    obtain ⟨u, hu, e⟩ := issue_eq_next.mp h
    obtain ⟨-, -, rfl⟩ := forceidle_inv hu
    cases e
    exact .inl ⟨ha, rfl⟩
  · next ha => exact .inr ⟨Bool.eq_false_iff.mpr ha, issue_snap_inv h⟩

theorem seqStep_idlewait {s t : State} (hp : s.phase = .idlewait) (h : seqStep s = .next t) :
    t = testIdlewait (s.setSnap s.lu.snapshot) := by
  simp only [seqStep, hp] at h
  exact issue_snap_inv h

theorem seqStep_start {s t : State} (hp : s.phase = .start) (h : seqStep s = .next t) :
    t = (((s.setLu s.lu.start).setHeld false).emit (.start (decide (s.lu.busState = .owner)))).setPhase .addr := by
  simp only [seqStep, hp] at h
  obtain ⟨u, hu, e⟩ := issue_eq_next.mp h
  obtain ⟨-, -, rfl⟩ := start_inv hu
  cases e
  rfl

theorem seqStep_addr {s t : State} (hp : s.phase = .addr) (h : seqStep s = .next t) :
    ∃ b p, b = addressByte s.dev s.isRead ∧
      t = ((s.setLu { s.lu with addr := b, txDone := false, pend := p }).emit (.addr b)).setPhase .addrwait := by
  simp only [seqStep, hp] at h
  obtain ⟨u, hu, e⟩ := issue_eq_next.mp h
  obtain ⟨-, -, rfl⟩ := addr_inv hu
  cases e
  exact ⟨_, _, rfl, rfl⟩

theorem seqStep_addrwait {s t : State} (hp : s.phase = .addrwait) (h : seqStep s = .next t) :
    t = testAddrwait (s.setSnap s.lu.snapshot) := by
  simp only [seqStep, hp] at h
  exact issue_snap_inv h

theorem seqStep_txbyte {s t : State} (hp : s.phase = .txbyte) (h : seqStep s = .next t) :
    ∃ b, streamByte s = .ok b ∧
      t = startWait ((s.setLu { s.lu with data := b, txDone := false, pend := .txb }).emit (.tx b)) .txwait := by
  simp only [seqStep, hp] at h
  split at h
  · next b hb =>
    obtain ⟨u, hu, e⟩ := issue_eq_next.mp h
    obtain ⟨-, -, rfl⟩ := tx_inv hu
    cases e
    exact ⟨b, hb, rfl⟩
  · cases h

theorem seqStep_txwait {s t : State} (hp : s.phase = .txwait) (h : seqStep s = .next t) :
    t = testTxwait (s.setSnap s.lu.snapshot) := by
  simp only [seqStep, hp] at h
  exact issue_snap_inv h

theorem seqStep_rxwait {s t : State} (hp : s.phase = .rxwait) (h : seqStep s = .next t) :
    t = testRxwait (s.setSnap s.lu.snapshot) := by
  simp only [seqStep, hp] at h
  exact issue_snap_inv h

theorem seqStep_rxbyte {s t : State} (hp : s.phase = .rxbyte) (h : seqStep s = .next t) :
    ∃ a m i, t = readLoop
      (((((s.setLu (s.lu.rx a)).setRxVal s.lu.data).emit (.rx s.lu.data a)).setBuf m).setIdx i) := by
  simp only [seqStep, hp] at h
  obtain ⟨u, hu, h⟩ := issue_eq_next.mp h
  obtain ⟨-, -, -, rfl⟩ := rx_inv hu
  obtain ⟨v, hv, e⟩ := andThen_eq_next.mp h
  obtain ⟨-, rfl⟩ := writeBuf_eq_next.mp hv
  cases e
  exact ⟨_, _, _, rfl⟩

theorem seqStep_stop {s t : State} (hp : s.phase = .stop) (h : seqStep s = .next t) :
    t = afterPhase (((s.setLu s.lu.stop).setHeld false).emit .stop) := by
  simp only [seqStep, hp] at h
  obtain ⟨u, hu, e⟩ := issue_eq_next.mp h
  obtain ⟨-, -, rfl⟩ := stop_inv hu
  cases e
  rfl

theorem seqStep_done {s t : State} (hp : s.phase = .done) (h : seqStep s = .next t) : t = finish s := by
  simp only [seqStep, hp] at h
  cases h
  rfl

theorem seqStep_init {s t : State} (hp : s.phase = .init) (h : seqStep s = .next t) :
    s.inited = false ∧ bringUp s = .next t := by
  simp only [seqStep, hp] at h
  exact (whenInitLegal_eq_next.mp h).imp_right And.right

/-! ### The order of the PHASEs -/

/-- The PHASEs one sequencer step can lead to. -/
def Phase.successors : Phase → List Phase
  | .idle => [.idle]
  | .init => [.idle]
  | .errchk => [.errchk, .idlechk]
  | .idlechk => [.idlechk, .idlewait, .start]
  | .idlewait => [.idlewait, .start]
  | .start => [.addr]
  | .addr => [.addrwait]
  | .addrwait => [.addrwait, .txbyte, .rxwait, .stop, .start, .done]
  | .txbyte => [.txwait]
  | .txwait => [.txwait, .txbyte, .stop, .start, .done]
  | .rxwait => [.rxwait, .rxbyte, .stop]
  | .rxbyte => [.rxwait, .stop]
  | .stop => [.start, .done]
  | .done => [.idle]

theorem afterPhase_phase (s : State) : (afterPhase s).phase ∈ [Phase.start, .done] := by
  obtain ⟨-, -, h⟩ | ⟨-, h⟩ := afterPhase_cases s <;> simp [h]

theorem writeLoop_phase (s : State) : (writeLoop s).phase ∈ [Phase.txbyte, .stop, .start, .done] := by
  obtain h | ⟨-, -, h⟩ | h := writeLoop_cases s
  · simp [h]
  · rw [h]
    exact List.mem_of_mem_drop (i := 2) (afterPhase_phase _)
  · simp [h]

theorem readLoop_phase (s : State) : (readLoop s).phase ∈ [Phase.rxwait, .stop] := by
  obtain h | h := readLoop_cases s <;> simp [h]

theorem countPoll_phase (s : State) : (countPoll s).phase = s.phase ∨ (countPoll s).phase = .stop := by
  obtain h | h := countPoll_cases s <;> simp [h]

theorem seqStep_phase {s t : State} (h : seqStep s = .next t) : t.phase ∈ s.phase.successors := by
  cases hp : s.phase <;> simp only [Phase.successors]
  case idle => simp only [seqStep, hp] at h; cases h; simp [hp]
  case init =>
    obtain ⟨-, h⟩ := seqStep_init hp h
    rw [bringUp_eq] at h
    cases h
    simp
  case errchk =>
    obtain rfl | ⟨-, rfl⟩ := seqStep_errchk hp h
    · simp
    · obtain e | e := testErrchk_cases (s.setSnap s.lu.snapshot) <;> simp [e, hp]
  case idlechk =>
    obtain ⟨-, rfl⟩ | ⟨-, rfl⟩ := seqStep_idlechk hp h
    · simp
    · obtain ⟨-, -, e⟩ | ⟨-, e⟩ := testIdlechk_cases (s.setSnap s.lu.snapshot) <;> simp [e, hp]
  case idlewait =>
    rw [seqStep_idlewait hp h]
    obtain e | e := testIdlewait_cases (s.setSnap s.lu.snapshot) <;> simp [e, hp]
  case start => simp [seqStep_start hp h]
  case addr => obtain ⟨_, _, -, rfl⟩ := seqStep_addr hp h; simp
  case addrwait =>
    rw [seqStep_addrwait hp h]
    obtain e | e | e | ⟨-, -, -, e⟩ := testAddrwait_cases (s.setSnap s.lu.snapshot) <;> rw [e]
    · simp [hp]
    · simp
    · exact (by decide : [Phase.rxwait, .stop] ⊆ _) (readLoop_phase _)
    · exact (by decide : [Phase.txbyte, .stop, .start, .done] ⊆ _) (writeLoop_phase _)
  case txbyte => obtain ⟨_, -, rfl⟩ := seqStep_txbyte hp h; simp
  case txwait =>
    rw [seqStep_txwait hp h]
    obtain ⟨f, e⟩ | e | ⟨-, -, e⟩ := testTxwait_cases (s.setSnap s.lu.snapshot) <;> rw [e]
    · simp
    · obtain e | e := countPoll_phase (s.setSnap s.lu.snapshot) <;> simp [e, hp]
    · exact (by decide : [Phase.txbyte, .stop, .start, .done] ⊆ _) (writeLoop_phase _)
  case rxwait =>
    rw [seqStep_rxwait hp h]
    obtain e | e | ⟨f, e⟩ | e := testRxwait_cases (s.setSnap s.lu.snapshot) <;> rw [e]
    · simp
    · simp [hp]
    · simp
    · obtain e | e := countPoll_phase (s.setSnap s.lu.snapshot) <;> simp [e, hp]
  case rxbyte =>
    obtain ⟨_, _, _, rfl⟩ := seqStep_rxbyte hp h
    exact readLoop_phase _
  case stop =>
    rw [seqStep_stop hp h]
    exact afterPhase_phase _
  case done => simp [seqStep_done hp h, finish]

end Sys2Proof.Machine
end

section
/-! PROOF. A completion flag is up only when no such byte is in flight (10_state R35 (iv)): every move of the bus agent
and every operation keeps it, with ADDR issued only directly after START. -/

namespace Sys2Proof.Machine

/-- A property of the line unit that the bus agent's moves of the coming turn keep holds after the turn. -/
theorem envTurn_lu_induct {Q : LineUnit → Prop} {s : State}
    (hQ : ∀ b, EnvMove.bus b ∈ s.slot → ∀ u, Q u → Q (b.apply u)) (hs : Q s.lu) : Q (envTurn s).lu := by
  refine envTurn_induct (P := fun w => Q w.lu) (fun m hm u hu => ?_) (fun _ _ _ => id) hs
  obtain ⟨b, rfl, e⟩ | ⟨-, _, _, e⟩ := m.apply_cases u <;> rw [e]
  · exact hQ b hm u.lu hu
  · exact hu

/-! ### The completion flags -/

/-- The part of `FlagsInv` that is about the line unit alone. -/
def LineUnit.FlagsConsistent (u : LineUnit) : Prop :=
  (u.txDone = true → u.pend ≠ .addrw ∧ u.pend ≠ .txb) ∧ (u.rxRdy = true → u.pend ≠ .rxb ∧ u.pend ≠ .addrr)

/-- No received byte waits and nothing is in flight: how the line unit stands before an address byte. -/
def LineUnit.Quiet (u : LineUnit) : Prop := u.rxRdy = false ∧ u.pend = .none

theorem flagsInv_iff {s : State} : FlagsInv s ↔
    s.luPort = none ∧ s.lu.FlagsConsistent ∧ (s.phase = .addr → s.lu.Quiet) := by
  unfold FlagsInv FlagsOk LineUnit.FlagsConsistent LineUnit.Quiet
  tauto

/-- Nothing in flight is consistent with any flag. -/
theorem LineUnit.FlagsConsistent.of_pend_none {u : LineUnit} (h : u.pend = .none) : u.FlagsConsistent := by
  simp [LineUnit.FlagsConsistent, h]

theorem BusMove.effect_flagsConsistent {m : BusMove} {u : LineUnit} (hm : m.enabled u = true)
    (h : u.FlagsConsistent) : (m.effect u).FlagsConsistent := by
  cases m with
  | txDone k => exact .of_pend_none rfl
  | rxByte v => exact .of_pend_none rfl
  | addrRead k =>
    cases k with
    | nack => exact .of_pend_none rfl
    | ack =>
      obtain ⟨-, hp⟩ : u.enable = true ∧ u.pend = .addrr := by simpa [BusMove.enabled] using hm
      obtain ⟨-, hrx⟩ := h
      exact ⟨fun _ => ⟨nofun, nofun⟩, fun hr => absurd hp (hrx hr).2⟩
  | idleForced => exact h
  | busError => exact h
  | busState b => exact h

theorem BusMove.apply_flagsConsistent (m : BusMove) {u : LineUnit} (h : u.FlagsConsistent) :
    (m.apply u).FlagsConsistent := by
  unfold BusMove.apply
  split
  · next hm => exact effect_flagsConsistent hm h
  · exact h

/-- With nothing in flight no byte completes. -/
theorem BusMove.apply_quiet (m : BusMove) {u : LineUnit} (h : u.Quiet) : (m.apply u).Quiet := by
  obtain ⟨hr, hp⟩ := h
  unfold BusMove.apply
  split
  · next hm => cases m <;> simp [BusMove.enabled, hp] at hm <;> exact ⟨hr, hp⟩
  · exact ⟨hr, hp⟩

theorem flagsInv_envTurn {s : State} (h : FlagsInv s) : FlagsInv (envTurn s) := by
  obtain ⟨hl, hf, hq⟩ := flagsInv_iff.mp h
  refine flagsInv_iff.mpr ⟨by simpa, ?_, fun hp => ?_⟩
  · exact envTurn_lu_induct (fun b _ _ => b.apply_flagsConsistent) hf
  · exact envTurn_lu_induct (fun b _ _ => b.apply_quiet) (hq (by simpa using hp))

/-- Every operation of the line unit keeps the flags consistent, an address byte where nothing else is under way. -/
theorem exec_flagsConsistent {i : Instr} {s t : State} (hi : i.isCommand = false) (h : exec i s = .next t)
    (hf : s.lu.FlagsConsistent) (hq : ∀ b, i = .addr b → s.lu.Quiet) : t.lu.FlagsConsistent := by
  cases i with
  | init => cases hi
  | write => cases hi
  | read => cases hi
  | writeRegs => cases hi
  | readRegs => cases hi
  | clken => cases h; exact hf
  | pinmux => cases h; exact hf
  | swrst => obtain ⟨-, h⟩ := whenClocked_eq_next.mp h; cases h; exact .of_pend_none rfl
  | setmode => obtain ⟨-, -, h⟩ := whenDisabled_eq_next.mp h; cases h; exact hf
  | setbaud d => obtain ⟨-, -, h⟩ := whenDisabled_eq_next.mp h; cases h; exact hf
  | enable => obtain ⟨-, h⟩ := whenClocked_eq_next.mp h; cases h; exact hf
  | snap => obtain ⟨-, rfl⟩ := snap_inv h; exact hf
  | errclr => obtain ⟨-, -, rfl⟩ := errclr_inv h; exact hf
  | forceidle => obtain ⟨-, -, rfl⟩ := forceidle_inv h; exact hf
  | start => obtain ⟨-, -, rfl⟩ := start_inv h; exact .of_pend_none rfl
  | addr b =>
    obtain ⟨hr, -⟩ := hq b rfl
    obtain ⟨-, -, rfl⟩ := addr_inv h
    exact ⟨nofun, fun hr' => Bool.noConfusion (hr.symm.trans hr')⟩
  | tx b => obtain ⟨-, -, rfl⟩ := tx_inv h; exact ⟨nofun, fun _ => ⟨nofun, nofun⟩⟩
  | rx a =>
    obtain ⟨-, -, -, rfl⟩ := rx_inv h
    cases a with
    | ack => exact ⟨fun _ => ⟨nofun, nofun⟩, nofun⟩
    | nack => exact .of_pend_none rfl
  | stop => obtain ⟨-, -, rfl⟩ := stop_inv h; exact .of_pend_none rfl

/-- INIT leaves nothing in flight. -/
theorem bringUp_pend {s t : State} (h : bringUp s = .next t) : t.lu.pend = .none := by
  rw [bringUp_eq] at h; cases h; rfl

theorem seqStep_flagsConsistent {s t : State} (h : seqStep s = .next t) (hf : s.lu.FlagsConsistent)
    (hq : s.phase = .addr → s.lu.Quiet) : t.lu.FlagsConsistent := by
  obtain ⟨-, rfl⟩ | ⟨-, -, h⟩ | ⟨-, rfl⟩ | ⟨i, u, hi, hu, hk⟩ := seqStep_cases h
  · exact hf
  · exact .of_pend_none (bringUp_pend h)
  · exact hf
  · have hfu : u.lu.FlagsConsistent := exec_flagsConsistent (seqOp_isCommand hi) hu hf fun b e =>
      hq (phase_of_seqOp_addr (e ▸ hi))
    obtain ⟨-, hk⟩ | ⟨-, -, hk⟩ := hk <;> (rw [hk.lu_eq]; exact hfu)

/-- Only START leads to PHASE = ADDR. -/
theorem seqStep_to_addr {s t : State} (h : seqStep s = .next t) (ht : t.phase = .addr) : s.phase = .start := by
  have hs := seqStep_phase h
  rw [ht] at hs
  cases hp : s.phase <;> simp [hp, Phase.successors] at hs ⊢

theorem seqStep_flagsInv {s t : State} (h : seqStep s = .next t) (ht : t.luPort = none) (hs : FlagsInv s) :
    FlagsInv t := by
  obtain ⟨-, hf, hq⟩ := flagsInv_iff.mp hs
  refine flagsInv_iff.mpr ⟨ht, seqStep_flagsConsistent h hf hq, fun hta => ?_⟩
  rw [seqStep_start (seqStep_to_addr h hta) h]
  exact ⟨rfl, rfl⟩

/-! ### What a host access leaves -/

/-- After a host access the line unit is as it was, with PHASE at IDLE, ERRCHK or START, or INIT has run. -/
theorem hostAccess_leaves {a : HostAct} {s t : State} (h : hostAccess a s = .next t) :
    (t.lu = s.lu ∧ t.held = s.held ∧ t.inited = s.inited ∧
      (t.phase = .idle ∨ (s.inited = true ∧ (t.phase = .errchk ∨ t.phase = .start)))) ∨
    (t.lu.pend = .none ∧ t.lu.busState = .idle ∧ t.lu.idleReq = false ∧ t.held = false ∧ t.inited = true ∧
      t.phase = .idle) := by
  obtain ⟨hp, ⟨d, i, hd, h⟩ | ⟨_, rfl⟩ | ⟨_, _, hlt, rfl⟩⟩ := hostAccess_cases h
  · by_cases hb : ∃ baud, i = .init baud
    · obtain ⟨baud, rfl⟩ := hb
      obtain ⟨-, -, -, h⟩ := init_inv h
      rw [bringUp_eq] at h
      cases h
      exact .inr ⟨rfl, rfl, rfl, rfl, rfl, rfl⟩
    · obtain ⟨-, hi, hph, -, _, _, _, _, _, _, _, _, _, _, rfl⟩ :=
        transfer_inv (decodeCmd_isCommand hd) (fun baud e => hb ⟨baud, e⟩) h
      exact .inl ⟨rfl, rfl, rfl, .inr ⟨hi, hph⟩⟩
  · exact .inl ⟨rfl, rfl, rfl, .inl hp⟩
  · exact .inl ⟨rfl, rfl, rfl, .inl hp⟩

theorem step_luPort {s t : State} (h : step s = .next t) (hl : s.luPort = none) : t.luPort = none := by
  obtain ⟨n, ha, -⟩ := step_advances h
  exact ha.port hl

/-- Settles O41: a completion flag rises only as its byte leaves the bus, a byte is put in flight only as the flag
falls, and an address byte only after START has cleared RXRDY. -/
theorem completionFlagsKept : Obligations.CompletionFlagsKept := by
  intro s t hs h
  obtain ⟨hl, -, -⟩ := flagsInv_iff.mp hs
  have ht := step_luPort h hl
  have he := flagsInv_envTurn hs
  obtain ⟨a, ha, -⟩ | ⟨-, -, -, rfl⟩ | ⟨a, rest, -, -, -, h⟩ | ⟨-, -, h⟩ := step_cases h
  · cases ha.symm.trans hl
  · exact he
  · obtain ⟨-, hf, -⟩ := flagsInv_iff.mp he
    obtain ⟨hlu, -, -, hph⟩ | ⟨hpend, -, -, -, -, hph⟩ := hostAccess_leaves h
    · refine flagsInv_iff.mpr ⟨ht, hlu ▸ hf, fun hta => ?_⟩
      simp [hta] at hph
    · exact flagsInv_iff.mpr ⟨ht, .of_pend_none hpend, fun hta => by simp [hta] at hph⟩
  · exact seqStep_flagsInv h ht he

end Sys2Proof.Machine
end

section
/-! PROOF. Who owns the bus while nothing outside interferes (10_state R35 (ii), (iii) as log entry 21 corrects
them). -/

namespace Sys2Proof.Machine

/-! ### Between START and STOP the block owns the bus -/

/-- The bus is this block's and not held over from a command before. -/
def OwnsBus (s : State) : Prop := s.held = false ∧ s.lu.busState = .owner

/-- The bus state that RECOVER and START rely on: owned exactly when held. -/
def BusAsHeld (s : State) : Prop := s.lu.busState = if s.held then .owner else .idle

/-- `busAsExpected` looks at PHASE, HELD, the position in IDLECHK, the bus state and, of PEND, whether it is none. -/
theorem busAsExpected_congr {s t : State} (hp : t.phase = s.phase) (hh : t.held = s.held) (ha : t.act = s.act)
    (hb : t.lu.busState = s.lu.busState) (hn : s.lu.pend = .none → t.lu.pend = .none) (h : busAsExpected s) :
    busAsExpected t := by
  have hidle : (if s.held then s.lu.busState = .owner else s.lu.busState = .idle ∧ s.lu.pend = .none) →
      if s.held then s.lu.busState = .owner else s.lu.busState = .idle ∧ t.lu.pend = .none := by
    cases s.held
    · exact And.imp_right hn
    · exact id
  unfold busAsExpected at h ⊢
  rw [hp, hh, ha, hb]
  cases hs : s.phase <;> simp only [hs] at h ⊢
  case idle => exact hidle h
  case done => exact hidle h
  all_goals exact h

theorem busAsExpected_idle {s : State} (hp : s.phase = .idle) :
    busAsExpected s ↔ BusAsHeld s ∧ (s.held = false → s.lu.pend = .none) := by
  unfold busAsExpected BusAsHeld
  rw [hp]
  cases s.held <;> simp

theorem busAsExpected_of_asHeld {s : State} (hp : s.phase = .errchk ∨ s.phase = .start) (hb : BusAsHeld s) :
    busAsExpected s := by
  unfold busAsExpected
  obtain hp | hp := hp <;> rw [hp] <;> exact hb

theorem Kept.idleReq_eq_false {s t : State} (h : Kept s t) (hr : s.lu.idleReq = false) : t.lu.idleReq = false := by
  rw [h.lu_eq, hr]

/-- A phase that ends goes to START or DONE, with the bus as HELD says. -/
theorem busAsExpected_afterPhase {s : State} (hb : BusAsHeld s) (hn : s.held = false → s.lu.pend = .none) :
    busAsExpected (afterPhase s) := by
  obtain ⟨-, -, e⟩ | ⟨-, e⟩ := afterPhase_cases s <;> rw [e]
  · exact hb
  · unfold BusAsHeld at hb
    cases hh : s.held <;> simp [busAsExpected, hb, hh, hn]

theorem OwnsBus.endWithStop {s : State} (h : OwnsBus s) (k : BitVec 17) : busAsExpected (endWithStop s k) := h

theorem OwnsBus.failLoop {s : State} (h : OwnsBus s) (f : Fail) : busAsExpected (failLoop s f) := h

theorem OwnsBus.failAddr {s : State} (h : OwnsBus s) : busAsExpected (failAddr s) := h

theorem OwnsBus.writeLoop {s : State} (h : OwnsBus s) : busAsExpected (writeLoop s) := by
  obtain e | ⟨-, -, e⟩ | e := writeLoop_cases s <;> rw [e]
  · exact h
  · exact busAsExpected_afterPhase h.2 nofun
  · exact h.endWithStop _

theorem OwnsBus.readLoop {s : State} (h : OwnsBus s) : busAsExpected (readLoop s) := by
  obtain e | e := readLoop_cases s <;> rw [e]
  · exact h
  · exact h.endWithStop _

theorem OwnsBus.countPoll {s : State} (h : OwnsBus s) (hs : busAsExpected s) : busAsExpected (countPoll s) := by
  obtain e | e := countPoll_cases s <;> rw [e]
  · exact busAsExpected_congr (by simp) (by simp) (by simp) (by simp) (by simp) hs
  · exact OwnsBus.failLoop h .pollTimeout

theorem OwnsBus.testAddrwait {s : State} (h : OwnsBus s) (hs : busAsExpected s) :
    busAsExpected (testAddrwait s) := by
  obtain e | e | e | ⟨-, -, -, e⟩ := testAddrwait_cases s <;> rw [e]
  · exact hs
  · exact h.failAddr
  · exact OwnsBus.readLoop h
  · exact OwnsBus.writeLoop h

theorem OwnsBus.testTxwait {s : State} (h : OwnsBus s) (hs : busAsExpected s) : busAsExpected (testTxwait s) := by
  obtain ⟨f, e⟩ | e | ⟨-, -, e⟩ := testTxwait_cases s <;> rw [e]
  · exact h.failLoop f
  · exact h.countPoll hs
  · exact OwnsBus.writeLoop h

theorem OwnsBus.testRxwait {s : State} (h : OwnsBus s) (hs : busAsExpected s) : busAsExpected (testRxwait s) := by
  obtain e | e | ⟨f, e⟩ | e := testRxwait_cases s <;> rw [e]
  · exact h
  · exact hs
  · exact h.failLoop f
  · exact h.countPoll hs

theorem LineUnit.rx_keeps (u : LineUnit) (a : Ack) :
    (u.rx a).busState = u.busState ∧ (u.rx a).idleReq = u.idleReq := by
  cases a <;> exact ⟨rfl, rfl⟩

/-- A sequencer step takes the bus from the state its PHASE expects to the one the next PHASE expects. IDLECHK never
asks for a forced idle, since the bus reads IDLE there or is held. -/
theorem seqStep_busAsExpected {s t : State} (hi : s.phase ≠ .idle) (h : seqStep s = .next t)
    (hr : s.lu.idleReq = false) (hb : busAsExpected s) : t.lu.idleReq = false ∧ busAsExpected t := by
  have hsnap : busAsExpected (s.setSnap s.lu.snapshot) := busAsExpected_congr rfl rfl rfl rfl id hb
  have hb' := hb
  unfold busAsExpected at hb'
  cases hp : s.phase <;> simp only [hp] at hb'
  case idle => exact absurd hp hi
  case errchk =>
    obtain rfl | ⟨ha, rfl⟩ := seqStep_errchk hp h
    · exact ⟨hr, rfl, hb'⟩
    · refine ⟨(kept_testErrchk _).idleReq_eq_false hr, ?_⟩
      obtain e | e := testErrchk_cases (s.setSnap s.lu.snapshot) <;> rw [e]
      · exact busAsExpected_of_asHeld (.inl hp) hb'
      · exact ⟨ha, hb'⟩
  case idlechk =>
    obtain ⟨ha, hbs⟩ := hb'
    obtain ⟨ha', -⟩ | ⟨-, rfl⟩ := seqStep_idlechk hp h
    · cases ha.symm.trans ha'
    · obtain ⟨hne, hh, -⟩ | ⟨-, e⟩ := testIdlechk_cases (s.setSnap s.lu.snapshot)
      · rw [show s.held = false from hh] at hbs
        exact absurd hbs hne
      · rw [e]
        exact ⟨hr, hbs⟩
  case start =>
    rw [seqStep_start hp h]
    refine ⟨hr, rfl, ?_⟩
    cases hh : s.held <;> simp [LineUnit.start, hb', hh]
  case addr =>
    obtain ⟨b, p, -, rfl⟩ := seqStep_addr hp h
    exact ⟨hr, hb'⟩
  case addrwait =>
    rw [seqStep_addrwait hp h]
    exact ⟨(kept_testAddrwait _).idleReq_eq_false hr, OwnsBus.testAddrwait hb' hsnap⟩
  case txbyte =>
    obtain ⟨b, -, rfl⟩ := seqStep_txbyte hp h
    exact ⟨hr, hb'⟩
  case txwait =>
    rw [seqStep_txwait hp h]
    exact ⟨(kept_testTxwait _).idleReq_eq_false hr, OwnsBus.testTxwait hb' hsnap⟩
  case rxwait =>
    rw [seqStep_rxwait hp h]
    exact ⟨(kept_testRxwait _).idleReq_eq_false hr, OwnsBus.testRxwait hb' hsnap⟩
  case rxbyte =>
    obtain ⟨a, m, i, rfl⟩ := seqStep_rxbyte hp h
    obtain ⟨hbs, hrq⟩ := s.lu.rx_keeps a
    refine ⟨by simpa [hrq], ?_⟩
    apply OwnsBus.readLoop
    exact ⟨by simpa using hb'.1, by simpa [hbs] using hb'.2⟩
  case stop =>
    rw [seqStep_stop hp h]
    refine ⟨by simpa [LineUnit.stop], busAsExpected_afterPhase ?_ fun _ => rfl⟩
    simp [BusAsHeld, LineUnit.stop, hb']
  case done =>
    rw [seqStep_done hp h]
    exact ⟨hr, hb'⟩

/-! ### The moves of a nominal bus -/

/-- With no forced idle asked for, a nominal move leaves the bus state alone and puts nothing in flight. -/
theorem BusMove.apply_nominal {m : BusMove} (hm : EnvMove.nominal (.bus m) = true) {u : LineUnit}
    (hr : u.idleReq = false) :
    (m.apply u).busState = u.busState ∧ (m.apply u).idleReq = false ∧ (u.pend = .none → (m.apply u).pend = .none) := by
  unfold BusMove.apply
  split
  · next he =>
    cases m with
    | txDone k => exact ⟨rfl, hr, fun _ => rfl⟩
    | addrRead k =>
      cases k with
      | nack => exact ⟨rfl, hr, fun _ => rfl⟩
      | ack => exact ⟨rfl, hr, fun hp => by simp [BusMove.enabled, hp] at he⟩
    | rxByte v => exact ⟨rfl, hr, fun _ => rfl⟩
    | idleForced => simp [BusMove.enabled, hr] at he
    | busError => cases hm
    | busState b => cases hm
  · exact ⟨rfl, hr, id⟩

theorem envTurn_nominal {s : State} (hn : EnvNominal s) (hr : s.lu.idleReq = false) :
    (envTurn s).lu.busState = s.lu.busState ∧ (envTurn s).lu.idleReq = false ∧
      (s.lu.pend = .none → (envTurn s).lu.pend = .none) := by
  refine envTurn_lu_induct (Q := fun u => u.busState = s.lu.busState ∧ u.idleReq = false ∧
    (s.lu.pend = .none → u.pend = .none)) (fun b hb u ⟨hbs, hr', hp⟩ => ?_) ⟨rfl, hr, id⟩
  obtain ⟨hbs', hr'', hp'⟩ := BusMove.apply_nominal (hn _ hb) hr'
  exact ⟨hbs'.trans hbs, hr'', hp' ∘ hp⟩

theorem nominalInv_envTurn {s : State} (h : NominalInv s) (hn : EnvNominal s) : NominalInv (envTurn s) := by
  obtain ⟨hl, h₀, h₁⟩ := h
  refine ⟨by simpa, by simpa, fun hi => ?_⟩
  obtain ⟨hr, hb⟩ := h₁ (by simpa using hi)
  obtain ⟨hbs, hr', hp⟩ := envTurn_nominal hn hr
  exact ⟨hr', busAsExpected_congr (by simp) (by simp) (by simp) hbs hp hb⟩

/-- A host access at IDLE launches with the bus as it is, or ends INIT with the bus idle. -/
theorem hostAccess_nominalInv {a : HostAct} {s t : State} (h : hostAccess a s = .next t) (hp : s.phase = .idle)
    (hs : NominalInv s) (ht : t.luPort = none) : NominalInv t := by
  obtain ⟨-, h₀, h₁⟩ := hs
  obtain ⟨hlu, hh, hi, hph⟩ | ⟨hpend, hbs, hr, hh, hi, hph⟩ := hostAccess_leaves h
  · refine ⟨ht, fun hi₀ => ?_, fun hi₁ => ?_⟩
    · have hs₀ : s.inited = false := hi.symm.trans hi₀
      obtain ⟨-, hh₀⟩ := h₀ hs₀
      exact ⟨by simpa [hs₀] using hph, hh.trans hh₀⟩
    · obtain ⟨hr, hb⟩ := h₁ (hi.symm.trans hi₁)
      have hb' := (busAsExpected_idle hp).mp hb
      rw [BusAsHeld, ← hlu, ← hh] at hb'
      refine ⟨hlu ▸ hr, ?_⟩
      obtain hph | ⟨-, hph⟩ := hph
      · exact (busAsExpected_idle hph).mpr hb'
      · exact busAsExpected_of_asHeld hph hb'.1
  · exact ⟨ht, fun hi₀ => Bool.noConfusion (hi₀.symm.trans hi),
      fun _ => ⟨hr, (busAsExpected_idle hph).mpr ⟨by simp [BusAsHeld, hbs, hh], fun _ => hpend⟩⟩⟩

/-- A running command was launched after INIT. -/
theorem seqStep_nominalInv {s t : State} (h : seqStep s = .next t) (hp : s.phase ≠ .idle) (hs : NominalInv s)
    (ht : t.luPort = none) : NominalInv t := by
  obtain ⟨-, h₀, h₁⟩ := hs
  have hi : s.inited = true := by
    by_contra hi
    exact hp (h₀ (Bool.eq_false_iff.mpr hi)).1
  obtain ⟨n, ha, -⟩ := seqStep_advances h
  obtain ⟨hr, hb⟩ := h₁ hi
  exact ⟨ht, fun hi₀ => Bool.noConfusion (hi₀.symm.trans (ha.inited hi)),
    fun _ => seqStep_busAsExpected hp h hr hb⟩

/-- Settles O42: a nominal move leaves the bus state to the block, and each PHASE hands the next one the bus state it
expects. -/
theorem nominalBusKept : Obligations.NominalBusKept := by
  intro s t hs hn h
  have hl : s.luPort = none := hs.1
  have ht := step_luPort h hl
  have he := nominalInv_envTurn hs hn
  obtain ⟨a, ha, -⟩ | ⟨-, -, -, rfl⟩ | ⟨a, rest, -, hp, -, h⟩ | ⟨-, hp, h⟩ := step_cases h
  · cases ha.symm.trans hl
  · exact he
  · exact hostAccess_nominalInv h (by simpa using hp) he ht
  · exact seqStep_nominalInv h (by simpa using hp) he ht

end Sys2Proof.Machine
end

section
/-! PROOF. The sequencer's step against the operation it issues (10_state R14, R13; 42_write R122), and the one poll
that sets HELD (10_state R17, 42_write R123). -/

namespace Sys2Proof.Machine

/-! ### HELD -/

/-- The head of the write loop sets HELD only where the stream is at its end and the bus is to be held. -/
theorem writeLoop_held {s : State} (h : (writeLoop s).held = true) (hs : s.held = false) :
    s.holds = true ∧ s.streamLen ≤ s.idx.toNat := by
  obtain e | ⟨hh, hlen, -⟩ | e := writeLoop_cases s
  · rw [e] at h
    exact Bool.noConfusion (hs.symm.trans h)
  · exact ⟨hh, hlen⟩
  · rw [e] at h
    exact Bool.noConfusion (hs.symm.trans h)

/-- A snapshot that completes a held stream: TXDONE without RXNACK, and IDX at the end of the stream. -/
def HeldEnd (s : State) (idx : BitVec 17) : Prop :=
  s.holds = true ∧ s.snap.txDone = true ∧ s.snap.rxNack = false ∧ s.streamLen ≤ idx.toNat

theorem testAddrwait_held {s : State} (h : (testAddrwait s).held = true) (hs : s.held = false) :
    s.isRead = false ∧ HeldEnd s (testAddrwait s).idx := by
  obtain e | e | e | ⟨hr, hd, hn, e⟩ := testAddrwait_cases s <;> rw [e] at h ⊢
  · simp [hs] at h
  · simp [hs] at h
  · simp [hs] at h
  · obtain ⟨hh, hlen⟩ := writeLoop_held h hs
    exact ⟨hr, hh, hd, hn, by simpa using hlen⟩

theorem testTxwait_held {s : State} (h : (testTxwait s).held = true) (hs : s.held = false) :
    HeldEnd s (testTxwait s).idx := by
  obtain ⟨f, e⟩ | e | ⟨hd, hn, e⟩ := testTxwait_cases s <;> rw [e] at h ⊢
  · simp [hs] at h
  · simp [hs] at h
  · obtain ⟨hh, hlen⟩ := writeLoop_held h hs
    exact ⟨hh, hd, hn, by simpa using hlen⟩

/-- The sequencer sets HELD by the poll of a write phase that completes a held stream, and nowhere else. -/
theorem seqStep_sets_held {s t : State} (h : seqStep s = .next t) (hs : s.held = false) (ht : t.held = true) :
    (s.phase = .addrwait ∧ s.isRead = false ∨ s.phase = .txwait) ∧ t.lu = s.lu ∧ t.trace = s.trace ∧
      HeldEnd (s.setSnap s.lu.snapshot) t.idx := by
  cases hp : s.phase
  case addrwait =>
    obtain rfl := seqStep_addrwait hp h
    obtain ⟨hr, hend⟩ := testAddrwait_held ht hs
    have hk := kept_testAddrwait (s.setSnap s.lu.snapshot)
    exact ⟨.inl ⟨rfl, hr⟩, hk.lu_eq, hk.trace_eq, hend⟩
  case txwait =>
    obtain rfl := seqStep_txwait hp h
    have hk := kept_testTxwait (s.setSnap s.lu.snapshot)
    exact ⟨.inr rfl, hk.lu_eq, hk.trace_eq, testTxwait_held ht hs⟩
  all_goals
    refine absurd ht (Bool.eq_false_iff.mp ?_)
  case idle => simp only [seqStep, hp] at h; cases h; exact hs
  case init =>
    obtain ⟨-, h⟩ := seqStep_init hp h
    rw [bringUp_eq] at h
    cases h
    rfl
  case errchk =>
    obtain rfl | ⟨-, rfl⟩ := seqStep_errchk hp h
    · exact hs
    · obtain e | e := testErrchk_cases (s.setSnap s.lu.snapshot) <;> rw [e] <;> exact hs
  case idlechk =>
    obtain ⟨-, rfl⟩ | ⟨-, rfl⟩ := seqStep_idlechk hp h
    · exact hs
    · obtain ⟨-, -, e⟩ | ⟨-, e⟩ := testIdlechk_cases (s.setSnap s.lu.snapshot) <;> rw [e] <;> exact hs
  case idlewait =>
    rw [seqStep_idlewait hp h]
    obtain e | e := testIdlewait_cases (s.setSnap s.lu.snapshot) <;> rw [e] <;> exact hs
  case start => rw [seqStep_start hp h]; rfl
  case addr => obtain ⟨_, _, -, rfl⟩ := seqStep_addr hp h; exact hs
  case txbyte => obtain ⟨_, -, rfl⟩ := seqStep_txbyte hp h; exact hs
  case rxwait =>
    rw [seqStep_rxwait hp h]
    obtain e | e | ⟨f, e⟩ | e := testRxwait_cases (s.setSnap s.lu.snapshot) <;> simp [e, hs]
  case rxbyte => obtain ⟨_, _, _, rfl⟩ := seqStep_rxbyte hp h; simpa using hs
  case stop => rw [seqStep_stop hp h]; simp
  case done => rw [seqStep_done hp h]; exact hs

/-- Settles O37: no operation and no launch raises HELD; of the sequencer's bookkeeping, only a held end does. -/
theorem heldSetOnlyByHeldWrite : Obligations.HeldSetOnlyByHeldWrite := by
  intro s t h hs ht
  have he : (envTurn s).held = false := by simpa
  obtain ⟨a, -, h⟩ | ⟨-, -, -, rfl⟩ | ⟨a, rest, -, -, -, h⟩ | ⟨-, -, h⟩ := step_cases h
  · obtain ⟨i, hi, h⟩ := accessLu_cases h
    obtain ⟨-, -, hh, -⟩ := exec_lu_effect (decodeLu_isCommand hi) h
    exact Bool.noConfusion (he.symm.trans (hh ht))
  · exact Bool.noConfusion (he.symm.trans ht)
  · obtain ⟨-, hh, -⟩ | ⟨-, -, -, hh, -⟩ := hostAccess_leaves h
    · exact Bool.noConfusion (he.symm.trans (hh.symm.trans ht))
    · exact Bool.noConfusion (hh.symm.trans ht)
  · obtain ⟨hph, hlu, htr, hh, hd, hn, hlen⟩ := seqStep_sets_held h he ht
    refine ⟨by simpa using hh, by simpa using hph, ?_, ?_, by simpa using htr, by simpa using hlen⟩
    · exact hlu ▸ hd
    · exact hlu ▸ hn

/-! ### The operation of each PHASE -/

/-- The operand registers and, unless `stores`, every byte of BUF are as before. -/
def SameInputs (stores : Prop) (s t : State) : Prop := SameOperands s t ∧ (¬stores → SameBuf s t)

theorem SameInputs.trans {p : Prop} {s t u : State} (h : SameInputs p s t) (h' : SameInputs p t u) :
    SameInputs p s u := by
  obtain ⟨⟨h₁, h₂, h₃, h₄, h₅, h₆⟩, hb⟩ := h
  obtain ⟨⟨h₁', h₂', h₃', h₄', h₅', h₆'⟩, hb'⟩ := h'
  exact ⟨⟨h₁'.trans h₁, h₂'.trans h₂, h₃'.trans h₃, h₄'.trans h₄, h₅'.trans h₅, h₆'.trans h₆⟩,
    fun hp i => (hb' hp i).trans (hb hp i)⟩

theorem sameInputs_envTurn (p : Prop) (s : State) : SameInputs p s (envTurn s) := by
  simp [SameInputs, SameOperands, SameBuf]

theorem exec_lu_sameInputs {i : Instr} {s t : State} (hi : i.isCommand = false) (h : exec i s = .next t) (p : Prop) :
    SameInputs p s t := by
  obtain ⟨_, _, _, _, _, _, _, rfl⟩ := exec_lu_shape hi h
  exact ⟨⟨rfl, rfl, rfl, rfl, rfl, rfl⟩, fun _ _ => rfl⟩

theorem Kept.sameInputs {s t : State} (h : Kept s t) (p : Prop) : SameInputs p s t := by
  obtain ⟨_, _, _, _, _, _, _, _, rfl⟩ := h
  exact ⟨⟨rfl, rfl, rfl, rfl, rfl, rfl⟩, fun _ _ => rfl⟩

theorem sameInputs_setBuf {p : Prop} (hp : p) (s : State) (m : List Host.Cell) : SameInputs p s (s.setBuf m) :=
  ⟨⟨rfl, rfl, rfl, rfl, rfl, rfl⟩, fun hn => absurd hp hn⟩

/-- A sequencer step that ends no command runs one operation and then touches neither the line unit nor TRACE. -/
theorem seqStep_runs {s t : State} (h : seqStep s = .next t) (hidle : s.phase ≠ .idle) (hinit : s.phase ≠ .init)
    (hdone : s.phase ≠ .done) :
    ∃ i u, seqOp s = some i ∧ exec i s = .next u ∧ t.lu = u.lu ∧ t.trace = u.trace ∧
      SameInputs (s.phase = .rxbyte) s t := by
  obtain ⟨hp, -⟩ | ⟨hp, -⟩ | ⟨hp, -⟩ | ⟨i, u, hi, hu, hk⟩ := seqStep_cases h
  · exact absurd hp hidle
  · exact absurd hp hinit
  · exact absurd hp hdone
  · have hop := exec_lu_sameInputs (seqOp_isCommand hi) hu (s.phase = .rxbyte)
    obtain ⟨-, hk⟩ | ⟨hp, -, hk⟩ := hk
    · exact ⟨i, u, hi, hu, hk.lu_eq, hk.trace_eq, hop.trans (hk.sameInputs _)⟩
    · exact ⟨i, u, hi, hu, hk.lu_eq, hk.trace_eq,
        (hop.trans (sameInputs_setBuf hp u _)).trans (hk.sameInputs _)⟩

/-- Settles O25: the operation is `seqOp` of the PHASE, and the PHASE it leads to is the step written out. -/
theorem sequencerIssuesOperations : Obligations.SequencerIssuesOperations := by
  intro s t hl hidle hinit hdone h
  obtain ⟨a, ha, -⟩ | ⟨-, hp, -⟩ | ⟨_, _, -, hp, -⟩ | ⟨-, -, h⟩ := step_cases h
  · cases ha.symm.trans hl
  · exact absurd hp hidle
  · exact absurd hp hidle
  obtain ⟨i, u, hop, hu, hlu, htr, hsame⟩ :=
    seqStep_runs h (by simpa using hidle) (by simpa using hinit) (by simpa using hdone)
  rw [envTurn_phase] at hsame
  obtain ⟨hops, hbuf⟩ := (sameInputs_envTurn _ s).trans hsame
  have op {j : Instr} (hj : seqOp s = some j) : i = j :=
    Option.some.inj (hop.symm.trans ((seqOp_envTurn s).trans hj))
  refine ⟨hops, hbuf, i, u, hu, hlu, htr, ?errchk, ?idlechk, ?waits, ?start, ?addr, ?txbyte, ?rxbyte, ?stop⟩
  case errchk => exact fun hp => op (by simp [seqOp, hp])
  case idlechk => exact fun hp => op (by simp [seqOp, hp])
  case waits => rintro (hp | hp | hp | hp) <;> exact op (by simp [seqOp, hp])
  case start =>
    intro hp
    exact ⟨op (by simp [seqOp, hp]), by simp [seqStep_start (by simpa using hp) h]⟩
  case addr =>
    intro hp
    obtain ⟨_, _, -, rfl⟩ := seqStep_addr (by simpa using hp) h
    exact ⟨op (by simp [seqOp, hp]), rfl⟩
  case txbyte =>
    intro hp
    obtain ⟨b, hb, rfl⟩ := seqStep_txbyte (by simpa using hp) h
    rw [envTurn_streamByte] at hb
    exact ⟨b, hb, op (by simp [seqOp, hp, hb]), rfl, by simp⟩
  case rxbyte => exact fun hp => op (by simp [seqOp, hp, rxAck])
  case stop => exact fun hp => op (by simp [seqOp, hp])

end Sys2Proof.Machine
end

section
/-! PROOF. Launching (30_encoding R61), what a step runs, RECOVER's checks (45_recovery R180 to R183), the host's
accesses (20_memory R43 to R47), and the state after power-on reset (10_state R32). -/

namespace Sys2Proof.Machine

/-! ### Launching -/

theorem whenReady_of_ready {s : State} {len : BitVec 16} (hp : s.phase = .idle) (hi : s.inited = true)
    (hl : len.toNat ≤ s.params.bufSize) (r : Result) : whenReady s len r = r := by
  simp [whenReady, lenOk, hp, hi, hl]

/-- Settles O20: a ready block passes the checks of every transfer command. -/
theorem transferCommandsLaunch : Obligations.TransferCommandsLaunch := by
  intro s dev reg asize len hold hp hi hl
  have ready := whenReady_of_ready hp hi hl
  refine ⟨ready _, ready _, ?_, ?_⟩
  · rintro rfl
    exact ⟨ready _, ready _⟩
  · rintro rfl
    exact ⟨ready _, ready _⟩

/-! ### What a step runs -/

theorem step_of_port {s : State} {a : LuAccess} (h : s.luPort = some a) :
    step s = accessLu a ((envTurn s).setPort none) := by
  simp [step, fetchStep, h]

theorem step_of_host {s : State} {a : HostAct} {rest : List HostAct} (hl : s.luPort = none) (hp : s.phase = .idle)
    (hh : s.host = a :: rest) : step s = hostAccess a ((envTurn s).setHost rest) := by
  simp [step, fetchStep, hl, hp, hh]

theorem accessLu_of_decode {a : LuAccess} {i : Instr} (h : decodeLu a = .ok i) (s : State) :
    accessLu a s = exec i s := by
  simp [accessLu, h]

/-- The 64-bit write of CMD runs the command its bytes decode to. -/
theorem hostAccess_writeCmd {s : State} {d : BitVec 64} {i : Instr} (hp : s.phase = .idle) (h : decodeCmd d = .ok i) :
    hostAccess (.writeReg offCmd (toBytesLE 8 d.toNat)) s = exec i (s.setCmd d) := by
  simp [hostAccess, writeCmd, hp, h]

/-- Settles O23: the queue's head is the access, and its bytes are those of `d`. -/
theorem hostWriteRunsCommand : Obligations.HostWriteRunsCommand := by
  intro s d i rest hl hp hh hd
  rw [step_of_host hl hp hh]
  exact hostAccess_writeCmd (by simpa using hp) hd

/-- Settles O26: with the port and the queue empty, IDLE has nothing to run. -/
theorem idleWaitsForHost : Obligations.IdleWaitsForHost := by
  intro s hl hp hh
  simp [step, fetchStep, hl, hp, hh]

/-- A word that decodes is a descriptor or an access that decodes, and `withFetchWord` places it. -/
theorem decodeTableWord_eq_some {nbits w : Nat} {i : Instr} (h : decodeTableWord nbits w = some i) :
    ∃ e, decode e = .ok i ∧ ∀ s : State, s.withFetchWord nbits w = s.place e := by
  unfold decodeTableWord at h
  split at h
  · cases h
  · next e he =>
    split at h
    · next j hj =>
      cases h
      exact ⟨e, hj, fun s => by simp [State.withFetchWord, he]⟩
    · cases h

/-- Settles O27: a descriptor is placed as the host's next write of CMD, an access on the port. -/
theorem fetchWordRuns : Obligations.FetchWordRuns := by
  intro s nbits w i h
  obtain ⟨e, he, hplace⟩ := decodeTableWord_eq_some h
  rw [hplace]
  cases e with
  | cd d =>
    refine ⟨((envTurn (s.place (.cd d))).setHost s.host).setCmd d, ?_, rfl, ?_⟩
    · exact hostWriteRunsCommand _ d i s.host rfl rfl rfl he
    · simp [State.place]
  | lu a =>
    refine ⟨(envTurn (s.place (.lu a))).setPort none, ?_, rfl, ?_⟩
    · exact (step_of_port rfl).trans (accessLu_of_decode he _)
    · simp [State.place]

/-! ### RECOVER -/

theorem seqStep_errchk_tests {s : State} (hp : s.phase = .errchk) (ha : s.act = false) (hc : s.extClken = true) :
    seqStep s = .next (testErrchk (s.setSnap s.lu.snapshot)) := by
  simp [seqStep, hp, ha, issue_snap hc]

theorem seqStep_idlechk_tests {s : State} (hp : s.phase = .idlechk) (ha : s.act = false) (hc : s.extClken = true) :
    seqStep s = .next (testIdlechk (s.setSnap s.lu.snapshot)) := by
  simp [seqStep, hp, ha, issue_snap hc]

theorem seqStep_idlewait_tests {s : State} (hp : s.phase = .idlewait) (hc : s.extClken = true) :
    seqStep s = .next (testIdlewait (s.setSnap s.lu.snapshot)) := by
  simp [seqStep, hp, issue_snap hc]

/-- An operation that needs the clock and ENABLE completes where it has both. -/
theorem whenEnabled_of_enabled {s : State} (hc : s.extClken = true) (he : s.lu.enable = true) (r : Result) :
    whenEnabled s r = r := by
  simp [whenEnabled, whenClocked, hc, he]

theorem seqStep_errchk_clears {s : State} (hp : s.phase = .errchk) (ha : s.act = true) (hc : s.extClken = true)
    (he : s.lu.enable = true) : seqStep s =
      .next ((((s.setLu { s.lu with busErr := false }).emit .errclr).setAct false).setPhase .idlechk) := by
  simp [seqStep, hp, ha, issue, exec, execErrclr, whenEnabled_of_enabled hc he]

theorem seqStep_idlechk_forces {s : State} (hp : s.phase = .idlechk) (ha : s.act = true) (hc : s.extClken = true)
    (he : s.lu.enable = true) : seqStep s =
      .next ((((s.setLu { s.lu with idleReq := true }).emit .forceidle).setAct false).setPhase .idlewait) := by
  simp [seqStep, hp, ha, issue, exec, execForceidle, whenEnabled_of_enabled hc he]

/-- IDLEWAIT's test moves to START exactly where the snapshot reads IDLE. -/
theorem testIdlewait_eq {s : State} (hp : s.phase = .idlewait) :
    testIdlewait s = s.setPhase (if s.snap.busState = .idle then .start else .idlewait) := by
  unfold testIdlewait
  split
  · rfl
  · rw [← hp]
    rfl

/-- Settles O28: each check is one SNAP and its test, and each remedy one operation. -/
theorem recoverChecks : Obligations.RecoverChecks := by
  intro s hc
  refine ⟨fun hp ha => seqStep_errchk_tests hp ha hc, fun hp ha he => seqStep_errchk_clears hp ha hc he,
    fun hp ha => ?_, fun hp ha he => seqStep_idlechk_forces hp ha hc he, fun hp => ?_⟩
  · rw [seqStep_idlechk_tests hp ha hc]
    exact congrArg _ (if_congr (by simp [LineUnit.snapshot]) rfl rfl)
  · rw [seqStep_idlewait_tests hp hc, testIdlewait_eq (by simpa using hp)]
    rfl

/-! ### Host -/

/-- The word RESULT as a number: COUNT in bits [16:0] and FAIL from bit 24 do not overlap. -/
theorem result_toNat (s : State) : s.result.toNat = s.count.toNat + s.fail.code.toNat * 2 ^ 24 := by
  have hc : s.count.toNat < 2 ^ 24 := Nat.lt_trans s.count.isLt (by norm_num)
  have hf : s.fail.code.toNat < 2 ^ 3 := s.fail.code.isLt
  have hor := Nat.two_pow_add_eq_or_of_lt hc s.fail.code.toNat
  rw [State.result, BitVec.toNat_or, BitVec.toNat_shiftLeft, BitVec.toNat_setWidth, BitVec.toNat_setWidth,
    Nat.shiftLeft_eq, Nat.mod_eq_of_lt (by omega), Nat.mod_eq_of_lt (by omega), Nat.mod_eq_of_lt (by omega)]
  rw [Nat.or_comm, Nat.mul_comm, ← hor, Nat.add_comm]

/-- Settles O54: `hostAccess` by offset and width. -/
theorem hostRegisterAccess : Obligations.HostRegisterAccess := by
  intro s
  refine ⟨fun hp => ⟨?_, ?_, fun bytes hb => ?_, fun off n h₈ h₄ => ⟨?_, fun bytes hb => ?_⟩⟩, fun hp a => ?_⟩
  · simp [hostAccess, hp, result_toNat]
  · simp [hostAccess, hp]
  · simp [hostAccess, hp, hb]
  · simp [hostAccess, hp, h₈, h₄]
  · subst hb
    simp [hostAccess, hp, h₈, h₄]
  · simp [hostAccess, hp]

theorem bufByte_setBuf_put (s : State) (i : Nat) (v : Byte) (j : Nat) :
    (s.setBuf (Memory.put s.buf i v)).bufByte j = if j = i then v else s.bufByte j := by
  split
  · next h => rw [h]; exact Memory.byte_put_same _ _ _ _
  · next h => exact Memory.byte_put_other h _ _ _

/-- Settles O55: BUF is a memory whose reads see the last write. -/
theorem bufReadAfterWrite : Obligations.BufReadAfterWrite := by
  intro s i v hp
  refine ⟨fun hi => ⟨⟨s.setBuf (Memory.put s.buf i v), ?_, bufByte_setBuf_put s i v, rfl, rfl, rfl⟩, ?_⟩,
    fun hi => ⟨?_, ?_⟩⟩
  · simp [hostAccess, hp, writeBuf, hi]
  · simp [hostAccess, hp, readBuf, hi]
  · simp [hostAccess, hp, writeBuf, Nat.not_lt.mpr hi]
  · simp [hostAccess, hp, readBuf, Nat.not_lt.mpr hi]

/-! ### Power-on reset -/

/-- Settles O43: BUF lists nothing, nothing is in flight, and INITED = 0. -/
theorem invariantsHoldAtReset : Obligations.InvariantsHoldAtReset :=
  ⟨⟨Memory.wf_reset, nofun⟩, flagsInv_iff.mpr ⟨rfl, .of_pend_none rfl, nofun⟩, rfl, fun _ => ⟨rfl, rfl⟩, nofun⟩

/-- Settles O44: `State.reset` field by field. -/
theorem resetValues : Obligations.ResetValues := by
  unfold Obligations.ResetValues
  decide

end Sys2Proof.Machine
end

section
/-! PROOF. The descriptor table (30_encoding R60 to R62, R67) and the register accesses of the line unit (R66):
decoding undoes encoding, and what decodes is an encoding. -/

namespace Sys2Proof

/-! ### What a row of the table fixes -/

theorem CdRow.admits_iff {r : CdRow} {d : BitVec 64} : r.admits d = true ↔ d &&& r.mask = r.bits := by
  simp [CdRow.admits]

/-- A bit that a row's mask covers has the value the row gives it. -/
theorem CdRow.bit_of_admits {r : CdRow} {d : BitVec 64} (h : r.admits d = true) {i : Nat}
    (hm : r.mask.getLsbD i = true) : d.getLsbD i = r.bits.getLsbD i := by
  rw [← CdRow.admits_iff.mp h, BitVec.getLsbD_and, hm, Bool.and_true]

/-- A field that a row's mask covers has the value the row gives it. -/
theorem CdRow.field_of_admits {r : CdRow} {d : BitVec 64} (h : r.admits d = true) {start n : Nat}
    (hm : r.mask.extractLsb' start n = BitVec.allOnes n) : d.extractLsb' start n = r.bits.extractLsb' start n := by
  rw [← CdRow.admits_iff.mp h, BitVec.extractLsb'_and, hm, BitVec.and_allOnes]

/-- Settles O3: the command code that a row fixes is the row's own. -/
theorem descriptorRowsDisjoint : Obligations.DescriptorRowsDisjoint := by
  intro d r hr r' hr' h h'
  have distinct : ∀ r ∈ CdRow.all, ∀ r' ∈ CdRow.all,
      r.bits.extractLsb' 0 4 = r'.bits.extractLsb' 0 4 → r = r' := by decide
  exact distinct r hr r' hr' ((admits_op hr h).symm.trans (admits_op hr' h'))

theorem CdRow.not_admits_of_ne {r r' : CdRow} {d : BitVec 64} (h : r.admits d = true) (hr : r ∈ CdRow.all)
    (hr' : r' ∈ CdRow.all) (hne : r ≠ r') : r'.admits d = false := by
  by_contra h'
  exact hne (descriptorRowsDisjoint d r hr r' hr' h (by simpa using h'))

/-! ### What the decoder answers on each row, and on a word of no row -/

theorem decodeCmd_of_init {d : BitVec 64} (h : CdRow.init.admits d = true) : decodeCmd d = .ok (.init (cdArg d)) := by
  simp [decodeCmd, h]

theorem decodeCmd_of_write {d : BitVec 64} (h : CdRow.write.admits d = true) :
    decodeCmd d = .ok (.write (cdDev d) (cdLen d) (cdHold d)) := by
  simp (disch := decide) [decodeCmd, h, CdRow.not_admits_of_ne h]

theorem decodeCmd_of_read {d : BitVec 64} (h : CdRow.read.admits d = true) :
    decodeCmd d = .ok (.read (cdDev d) (cdLen d)) := by
  simp (disch := decide) [decodeCmd, h, CdRow.not_admits_of_ne h]

theorem decodeCmd_of_writeRegs {d : BitVec 64} (h : CdRow.writeRegs.admits d = true) :
    decodeCmd d = withAsize (cdAsize d) (.writeRegs (cdDev d) (cdReg d) (cdAsize d) (cdLen d) (cdHold d)) := by
  simp (disch := decide) [decodeCmd, h, CdRow.not_admits_of_ne h]

theorem decodeCmd_of_readRegs {d : BitVec 64} (h : CdRow.readRegs.admits d = true) :
    decodeCmd d = withAsize (cdAsize d) (.readRegs (cdDev d) (cdReg d) (cdAsize d) (cdLen d)) := by
  simp (disch := decide) [decodeCmd, h, CdRow.not_admits_of_ne h]

/-- A word of no row is refused: as a reserved command code, or else for a bit that has to be 0 (30_encoding R67). -/
theorem decodeCmd_of_no_row {d : BitVec 64} (h : ∀ r ∈ CdRow.all, r.admits d = false) :
    decodeCmd d = .error (if cdOp d == 0#4 || (5#4).ult (cdOp d) then .reservedOp else .unusedField) := by
  simp only [CdRow.all, List.forall_mem_cons] at h
  obtain ⟨h₁, h₂, h₃, h₄, h₅, -⟩ := h
  simp only [decodeCmd, h₁, h₂, h₃, h₄, h₅, Bool.false_eq_true, if_false]
  split <;> rfl

theorem CdRow.mem_all {r : CdRow} :
    r ∈ CdRow.all ↔ r = .init ∨ r = .write ∨ r = .read ∨ r = .writeRegs ∨ r = .readRegs := by
  simp [CdRow.all]

theorem withAsize_eq_ok {asize : BitVec 2} {i j : Instr} :
    withAsize asize i = .ok j ↔ asizeOk asize = true ∧ i = j := by
  unfold withAsize; split <;> simp_all

theorem asizeOk_iff {asize : BitVec 2} : asizeOk asize = true ↔ asize = 1#2 ∨ asize = 2#2 := by
  simp [asizeOk]

theorem exists_row_of_decodeCmd {d : BitVec 64} {i : Instr} (h : decodeCmd d = .ok i) :
    ∃ r ∈ CdRow.all, r.admits d = true := by
  by_contra hn
  rw [decodeCmd_of_no_row (by simpa using hn)] at h
  cases h

/-- On a word of a row only the address size can be illegal, and only where the row has one. -/
theorem decodeCmd_isOk_iff_of_admits {r : CdRow} {d : BitVec 64} (hr : r ∈ CdRow.all) (h : r.admits d = true) :
    (∃ i, decodeCmd d = .ok i) ↔
      (r = CdRow.writeRegs ∨ r = CdRow.readRegs → cdAsize d = 1#2 ∨ cdAsize d = 2#2) := by
  obtain rfl | rfl | rfl | rfl | rfl := CdRow.mem_all.mp hr
  · exact iff_of_true ⟨_, decodeCmd_of_init h⟩ (fun he => absurd he (by decide))
  · exact iff_of_true ⟨_, decodeCmd_of_write h⟩ (fun he => absurd he (by decide))
  · exact iff_of_true ⟨_, decodeCmd_of_read h⟩ (fun he => absurd he (by decide))
  · simp [decodeCmd_of_writeRegs h, withAsize_eq_ok, asizeOk_iff]
  · simp [decodeCmd_of_readRegs h, withAsize_eq_ok, asizeOk_iff]

/-- The command codes of the five rows are 1 to 5. -/
theorem cdOp_toNat_of_admits {r : CdRow} {d : BitVec 64} (hr : r ∈ CdRow.all) (h : r.admits d = true) :
    1 ≤ (cdOp d).toNat ∧ (cdOp d).toNat ≤ 5 := by
  have codes : ∀ r ∈ CdRow.all,
      1 ≤ (r.bits.extractLsb' 0 4).toNat ∧ (r.bits.extractLsb' 0 4).toNat ≤ 5 := by decide
  rw [admits_op hr h]
  exact codes r hr

/-- Settles O4: on a word of a row the address size decides, and a reserved command code is on no row. -/
theorem descriptorLegality : Obligations.DescriptorLegality := by
  intro d
  refine ⟨⟨fun hd => ?_, fun ⟨r, hr, hm, ha⟩ => ?_⟩, fun hop => ?_⟩
  · obtain ⟨r, hr, h⟩ := exists_row_of_decodeCmd hd.choose_spec
    exact ⟨r, hr, CdRow.admits_iff.mp h, (decodeCmd_isOk_iff_of_admits hr h).mp hd⟩
  · exact (decodeCmd_isOk_iff_of_admits hr (CdRow.admits_iff.mpr hm)).mpr ha
  · have no_row : ∀ r ∈ CdRow.all, r.admits d = false := by
      intro r hr
      by_contra h
      have := cdOp_toNat_of_admits hr (by simpa using h)
      omega
    have reserved : (cdOp d == 0#4 || (5#4).ult (cdOp d)) = true := by
      revert hop
      generalize cdOp d = op
      revert op
      decide
    rw [decodeCmd_of_no_row no_row, if_pos reserved]

/-! ### A descriptor is made of its fields -/

/-- A word is the descriptor of its fields where its two bits without a field are 0 (30_encoding R60). -/
theorem cdWord_fields {d : BitVec 64} (h₇ : d.getLsbD 7 = false) (h₁₅ : d.getLsbD 15 = false) :
    cdWord (cdOp d) (cdHold d) (cdAsize d) (cdDev d) (cdReg d) (cdArg d) = d := by
  rw [BitVec.getLsbD_eq_getElem (by decide)] at h₇ h₁₅
  ext i hi
  simp only [cdWord, cdOp, cdHold, cdAsize, cdDev, cdReg, cdArg]
  interval_cases i <;> simp [h₇, h₁₅]

theorem cdWord_of_admits {r : CdRow} {d : BitVec 64} (hr : r ∈ CdRow.all) (h : r.admits d = true) :
    cdWord (r.bits.extractLsb' 0 4) (cdHold d) (cdAsize d) (cdDev d) (cdReg d) (cdArg d) = d := by
  have fixed : ∀ r ∈ CdRow.all, (r.mask.getLsbD 7 = true ∧ r.bits.getLsbD 7 = false)
      ∧ r.mask.getLsbD 15 = true ∧ r.bits.getLsbD 15 = false := by decide
  obtain ⟨⟨m₇, b₇⟩, m₁₅, b₁₅⟩ := fixed r hr
  rw [← admits_op hr h]
  exact cdWord_fields ((CdRow.bit_of_admits h m₇).trans b₇) ((CdRow.bit_of_admits h m₁₅).trans b₁₅)

/-- Where ARG[31:16] is fixed at 0, ARG is LEN. -/
theorem cdArg_of_admits {r : CdRow} {d : BitVec 64} (h : r.admits d = true)
    (hm : r.mask.extractLsb' 48 16 = BitVec.allOnes 16) (hb : r.bits.extractLsb' 48 16 = 0#16) :
    cdArg d = (cdLen d).setWidth 32 := by
  rw [cdArg, ← BitVec.extractLsb'_append_extractLsb'_eq_extractLsb' (len₁ := 16) (len₂ := 16) rfl,
    CdRow.field_of_admits h hm, hb]
  exact (BitVec.setWidth_eq_append (by decide)).symm

/-- Settles O2: what a row's mask leaves out are the operands, and what it covers the encoding writes. -/
theorem encodeDecodeDescriptor : Obligations.EncodeDecodeDescriptor := by
  intro d i cur hd
  obtain ⟨r, hr, h⟩ := exists_row_of_decodeCmd hd
  have word := cdWord_of_admits hr h
  have field {start n : Nat} := CdRow.field_of_admits h (start := start) (n := n)
  obtain rfl | rfl | rfl | rfl | rfl := CdRow.mem_all.mp hr
  · rw [decodeCmd_of_init h] at hd
    cases hd
    rw [cdHold, CdRow.bit_of_admits h rfl, cdAsize, cdDev, cdReg, field (by decide), field (by decide),
      field (by decide)] at word
    exact ⟨congrArg Encoded.cd word, rfl⟩
  · rw [decodeCmd_of_write h] at hd
    cases hd
    rw [cdAsize, cdReg, field (by decide), field (by decide), cdArg_of_admits h rfl rfl] at word
    exact ⟨congrArg Encoded.cd word, rfl⟩
  · rw [decodeCmd_of_read h] at hd
    cases hd
    rw [cdHold, CdRow.bit_of_admits h rfl, cdAsize, cdReg, field (by decide), field (by decide),
      cdArg_of_admits h rfl rfl] at word
    exact ⟨congrArg Encoded.cd word, rfl⟩
  · rw [decodeCmd_of_writeRegs h] at hd
    obtain ⟨ha, rfl⟩ := withAsize_eq_ok.mp hd
    rw [cdArg_of_admits h rfl rfl] at word
    exact ⟨congrArg Encoded.cd word, ha⟩
  · rw [decodeCmd_of_readRegs h] at hd
    obtain ⟨ha, rfl⟩ := withAsize_eq_ok.mp hd
    rw [cdHold, CdRow.bit_of_admits h rfl, cdArg_of_admits h rfl rfl] at word
    exact ⟨congrArg Encoded.cd word, ha⟩

/-! ### Decoding an encoding -/

@[simp] theorem cdLen_cdWord (op : BitVec 4) (hold : Bool) (asize : BitVec 2) (dev : BitVec 7) (reg : BitVec 16)
    (len : BitVec 16) : cdLen (cdWord op hold asize dev reg (len.setWidth 32)) = len := by
  simp [cdLen_eq]

/-- Settles O1: a command's encoding lies on its own row with its operands in the fields; an operation's access is the
one its row of 30_encoding R66 names, whatever LU_CMD holds. -/
theorem decodeEncodeAgree : Obligations.DecodeEncodeAgree := by
  intro i cur hw
  cases i with
  | init baud => simp [encode, decode, decodeCmd_of_init (admits_init baud)]
  | write dev len hold => simp [encode, decode, decodeCmd_of_write (admits_write dev hold len)]
  | read dev len => simp [encode, decode, decodeCmd_of_read (admits_read dev len)]
  | writeRegs dev reg asize len hold =>
    have ha : asizeOk asize = true := hw
    simp [encode, decode, decodeCmd_of_writeRegs (admits_writeRegs dev hold asize reg len), withAsize, ha]
  | readRegs dev reg asize len =>
    have ha : asizeOk asize = true := hw
    simp [encode, decode, decodeCmd_of_readRegs (admits_readRegs dev asize reg len), withAsize, ha]
  | start =>
    obtain ⟨-, -, h⟩ := Laws.EncodesInRow.start cur
    exact if_pos h
  | stop =>
    obtain ⟨-, -, h⟩ := Laws.EncodesInRow.stop cur
    exact (if_neg (by rw [h]; decide)).trans (if_pos h)
  | rx a =>
    obtain ⟨-, -, h⟩ := Laws.EncodesInRow.rx a cur
    have hbit : (0#5 ++ (a.bit ++ cur.extractLsb' 0 2)).getLsbD 2 = a.bit.getLsbD 0 :=
      BitVec.getLsbD_append.trans BitVec.getLsbD_append
    refine (if_pos h).trans ?_
    rw [hbit]
    cases a <;> rfl
  | _ => rfl

/-- Settles O5: the decoder evaluated on each word. -/
theorem specWordsDecode : Obligations.SpecWordsDecode := by
  unfold Obligations.SpecWordsDecode
  decide

end Sys2Proof
end

section
/-! PROOF. The operand forms (30_encoding R63 to R65), INIT's baud rate (41_initialize R112, 40_line_unit_ops R109),
where a command is refused (70 R225 to R229), and an access on the line unit's port. -/

namespace Sys2Proof.Machine

/-! ### The address byte and the frame -/

theorem addressByte_toNat (dev : BitVec 7) (rw : Bool) : (addressByte dev rw).toNat = 2 * dev.toNat + rw.toNat := by
  rw [addressByte, BitVec.toNat_append, BitVec.toNat_ofBool, ← Nat.shiftLeft_add_eq_or_of_lt rw.toNat_lt]
  omega

/-- Settles O6: the byte is the device address with the direction bit appended. -/
theorem addressByteFields : Obligations.AddressByteFields := by
  intro dev rw
  refine ⟨addressByte_toNat dev rw, BitVec.extractLsb'_append_eq_left, BitVec.getLsbD_append.trans ?_⟩
  simp

/-- Settles O7: the high byte is the quotient of the offset by 256 and the low byte its remainder. -/
theorem frameBytes : Obligations.FrameBytes := by
  intro reg
  refine ⟨_, _, rfl, rfl, rfl, rfl, ?_, ?_⟩ <;>
    simp only [BitVec.extractLsb'_toNat, Nat.shiftRight_eq_div_pow]
  · omega
  · omega

/-! ### The baud rate and the divisor -/

theorem baudOk_iff {p : Params} {baud : BitVec 32} : baudOk p baud = true ↔
    baud.toNat ≠ 0 ∧ 1 ≤ baudQuotient p baud ∧ baudQuotient p baud - 1 < 256 := by
  unfold baudOk
  split <;> simp [*, Config.divWidth]

theorem divisor_toNat {p : Params} {baud : BitVec 32} (h : baudOk p baud = true) :
    (divisor p baud).toNat = baudQuotient p baud - 1 := by
  obtain ⟨-, -, hlt⟩ := baudOk_iff.mp h
  exact Nat.mod_eq_of_lt hlt

/-- Settles O8: the checks are `baudOk`'s, and the third keeps the divisor from wrapping. -/
theorem baudChecksAndDivisor : Obligations.BaudChecksAndDivisor :=
  fun _ _ => ⟨baudOk_iff, divisor_toNat⟩

/-- With a legal rate the half period has as many cycles as R112's quotient says. -/
theorem sclHz_divisor {p : Params} {baud : BitVec 32} (h : baudOk p baud = true) :
    sclHz p (divisor p baud) = p.sysclkHz / (2 * baudQuotient p baud) := by
  obtain ⟨-, hq, -⟩ := baudOk_iff.mp h
  rw [sclHz, divisor_toNat h, Nat.sub_add_cancel hq]

/-- Settles O9: the quotient is floored, so the period it makes is no longer than the one requested. -/
theorem sclNeverSlower : Obligations.SclNeverSlower := by
  intro p baud h
  obtain ⟨-, hq, -⟩ := baudOk_iff.mp h
  have hpos : 0 < 2 * baudQuotient p baud := by omega
  have swap : 2 * baud.toNat * baudQuotient p baud = baud.toNat * (2 * baudQuotient p baud) := by ring
  rw [sclHz_divisor h]
  constructor
  · rw [Nat.le_div_iff_mul_le hpos, ← swap]
    exact Nat.mul_div_le _ _
  · intro hexact
    have hclk : p.sysclkHz = baud.toNat * (2 * baudQuotient p baud) := by
      rw [← swap]
      exact (Nat.mul_div_cancel' (Nat.dvd_of_mod_eq_zero hexact)).symm
    exact Nat.div_eq_of_eq_mul_left hpos hclk

/-! ### Where a command is refused -/

theorem whenReady_of_busy {s : State} (hp : s.phase ≠ .idle) (len : BitVec 16) (r : Result) :
    whenReady s len r = .refused .busy := by
  simp [whenReady, hp]

theorem whenReady_of_not_inited {s : State} (hp : s.phase = .idle) (hi : s.inited = false) (len : BitVec 16)
    (r : Result) : whenReady s len r = .refused .notInitialised := by
  simp [whenReady, hp, hi]

theorem whenReady_of_too_long {s : State} {len : BitVec 16} (hp : s.phase = .idle) (hi : s.inited = true)
    (hl : s.params.bufSize < len.toNat) (r : Result) : whenReady s len r = .refused .lenTooLong := by
  simp [whenReady, lenOk, hp, hi, hl]

/-- A well-formed transfer command is launched under `whenReady`'s checks. -/
theorem exec_transfer_eq {i : Instr} (hi : i.isCommand = true) (hw : i.wellFormed = true) (hn : ∀ b, i ≠ .init b)
    (s : State) : ∃ len r, exec i s = whenReady s len r := by
  cases i with
  | init b => exact absurd rfl (hn b)
  | write dev len hold => exact ⟨len, _, rfl⟩
  | read dev len => exact ⟨len, _, rfl⟩
  | writeRegs dev reg asize len hold => exact ⟨len, _, if_pos hw⟩
  | readRegs dev reg asize len => exact ⟨len, _, if_pos hw⟩
  | _ => cases hi

/-- Settles O21: INIT's own checks, `whenReady`'s three, and the address size, in the order they are made. -/
theorem commandsRefused : Obligations.CommandsRefused := by
  intro s
  refine ⟨fun hp i hi hw => ?_, fun hp hi => ⟨fun i hc hw hn => ?_, fun b hb => ?_⟩,
    fun hp hi => ⟨fun b => ?_, fun dev reg asize len hold hl => ?_⟩, fun dev reg asize len hold ha => ?_⟩
  · by_cases hn : ∃ b, i = .init b
    · obtain ⟨b, rfl⟩ := hn
      exact if_pos hp
    · obtain ⟨len, r, h⟩ := exec_transfer_eq hi hw (fun b hb => hn ⟨b, hb⟩) s
      rw [h, whenReady_of_busy hp]
  · obtain ⟨len, r, h⟩ := exec_transfer_eq hc hw hn s
    rw [h, whenReady_of_not_inited hp hi]
  · simp [exec, execInit, whenInitLegal, hp, hi, hb]
  · simp [exec, execInit, whenInitLegal, hp, hi]
  · have refuse := whenReady_of_too_long hp hi hl
    exact ⟨refuse _, refuse _, fun ha => ⟨(if_pos ha).trans (refuse _), (if_pos ha).trans (refuse _)⟩⟩
  · simp [exec, execWriteRegs, execReadRegs, ha]

/-! ### An access on the line unit's port -/

/-- Settles O24: the port comes before the host and the sequencer. -/
theorem portAccessRunsOperation : Obligations.PortAccessRunsOperation :=
  fun _ _ _ hs ha => (step_of_port hs).trans (accessLu_of_decode ha _)

end Sys2Proof.Machine
end

section
/-! PROOF. The fourteen line-unit operations (40_line_unit_ops R80 to R94): where each completes and what it leaves, where
it is refused, and its frame. -/

namespace Sys2Proof.Machine

/-! ### The guards -/

theorem whenClocked_of_clocked {s : State} (hc : s.extClken = true) (r : Result) : whenClocked s r = r := if_pos hc

theorem whenClocked_of_gated {s : State} (hc : s.extClken = false) (r : Result) :
    whenClocked s r = .refused .clockOff := by
  simp [whenClocked, hc]

theorem whenEnabled_of_not_enabled {s : State} (hc : s.extClken = true) (he : s.lu.enable = false) (r : Result) :
    whenEnabled s r = .refused .notEnabled := by
  simp [whenEnabled, whenClocked_of_clocked hc, he]

theorem whenDisabled_of_not_enabled {s : State} (hc : s.extClken = true) (he : s.lu.enable = false) (r : Result) :
    whenDisabled s r = r := by
  simp [whenDisabled, whenClocked_of_clocked hc, he]

theorem whenDisabled_of_enabled {s : State} (hc : s.extClken = true) (he : s.lu.enable = true) (r : Result) :
    whenDisabled s r = .refused .alreadyEnabled := by
  simp [whenDisabled, whenClocked_of_clocked hc, he]

/-- Every operation on a register of the line unit waits for the clock gate first; CLKEN and PINMUX reach none. -/
theorem exec_lu_clocked {i : Instr} (hi : i.isCommand = false) (hck : i ≠ .clken) (hpm : i ≠ .pinmux) (s : State) :
    ∃ r, exec i s = whenClocked s r := by
  cases i with
  | init => cases hi
  | write => cases hi
  | read => cases hi
  | writeRegs => cases hi
  | readRegs => cases hi
  | clken => exact absurd rfl hck
  | pinmux => exact absurd rfl hpm
  | _ => exact ⟨_, rfl⟩

/-! ### Where an operation completes -/

/-- Settles O11: each guard lets its operation through. -/
theorem bringUpOperationsComplete : Obligations.BringUpOperationsComplete := by
  intro s
  refine ⟨rfl, rfl, fun hc => ⟨?_, ?_⟩, fun hc he => ⟨?_, fun d => ?_⟩⟩
  · exact whenClocked_of_clocked hc _
  · exact whenClocked_of_clocked hc _
  · exact whenDisabled_of_not_enabled hc he _
  · exact whenDisabled_of_not_enabled hc he _

/-- Settles O12: SNAP needs the clock alone, ERRCLR and FORCEIDLE need ENABLE too. -/
theorem statusOperationsComplete : Obligations.StatusOperationsComplete := by
  intro s hc
  refine ⟨whenClocked_of_clocked hc _, fun he => ⟨?_, ?_⟩⟩
  · exact whenEnabled_of_enabled hc he _
  · exact whenEnabled_of_enabled hc he _

theorem exec_start {s : State} (hc : s.extClken = true) (he : s.lu.enable = true) : exec .start s =
    .next (((s.setLu s.lu.start).setHeld false).emit (.start (decide (s.lu.busState = BusState.owner)))) :=
  whenEnabled_of_enabled hc he _

theorem exec_stop {s : State} (hc : s.extClken = true) (he : s.lu.enable = true) :
    exec .stop s = .next (((s.setLu s.lu.stop).setHeld false).emit .stop) :=
  whenEnabled_of_enabled hc he _

theorem exec_rx {s : State} (hc : s.extClken = true) (he : s.lu.enable = true) (hr : s.lu.rxRdy = true) (a : Ack) :
    exec (.rx a) s = .next (((s.setLu (s.lu.rx a)).setRxVal s.lu.data).emit (.rx s.lu.data a)) :=
  (whenEnabled_of_enabled hc he _).trans (if_pos hr)

/-- START takes an idle bus, keeps an owned one, and leaves a bus that is not its own to take. -/
theorem LineUnit.start_busState (u : LineUnit) :
    (u.busState = .idle ∨ u.busState = .owner → u.start.busState = .owner) ∧
      (u.busState = .busy ∨ u.busState = .unknown → u.start.busState = u.busState) := by
  refine ⟨?_, ?_⟩ <;> rintro (h | h) <;> simp [LineUnit.start, h]

/-- Settles O13: the bus state is the one field of the line unit that depends on what it was. -/
theorem startCompletes : Obligations.StartCompletes := by
  intro s hc he
  obtain ⟨htake, hleave⟩ := s.lu.start_busState
  exact ⟨_, exec_start hc he, rfl, htake, hleave⟩

/-- Settles O14: the direction bit of the address is bit 0. -/
theorem addressAndTransmitComplete : Obligations.AddressAndTransmitComplete := by
  intro s b hc he
  refine ⟨(whenEnabled_of_enabled hc he _).trans ?_, whenEnabled_of_enabled hc he _⟩
  cases b.getLsbD 0 <;> rfl

/-- Settles O15: the byte that waits is returned under either answer. -/
theorem receiveCompletes : Obligations.ReceiveCompletes :=
  fun _ hc he hr => ⟨exec_rx hc he hr .ack, exec_rx hc he hr .nack⟩

/-- STOP releases the bus if it is owned and leaves any other bus state. -/
theorem LineUnit.stop_busState (u : LineUnit) :
    (u.busState = .owner → u.stop.busState = .idle) ∧ (u.busState ≠ .owner → u.stop.busState = u.busState) :=
  ⟨fun h => if_pos h, fun h => if_neg h⟩

/-- Settles O16: as with START, the bus state is the one field that depends on what it was. -/
theorem stopCompletes : Obligations.StopCompletes :=
  fun s hc he => ⟨_, exec_stop hc he, rfl, s.lu.stop_busState⟩

/-! ### Where an operation is refused -/

/-- Settles O17: the clock gate is looked at first, then ENABLE, then RXRDY. -/
theorem lineUnitPreconditions : Obligations.LineUnitPreconditions := by
  intro s
  refine ⟨fun hc i hi hck hpm => ?_, fun hc he => ?_, fun hc he => ?_⟩
  · obtain ⟨r, hr⟩ := exec_lu_clocked hi hck hpm s
    rw [hr, whenClocked_of_gated hc]
  · have refuse := whenEnabled_of_not_enabled hc he
    exact ⟨refuse _, refuse _, refuse _, refuse _, fun _ => ⟨refuse _, refuse _⟩, fun _ => refuse _⟩
  · have refuse := whenDisabled_of_enabled hc he
    refine ⟨refuse _, fun _ => refuse _, fun hr a => ?_⟩
    exact (whenEnabled_of_enabled hc he _).trans (if_neg (Bool.eq_false_iff.mp hr))

/-! ### The frame -/

/-- The two external bits belong to CLKEN and PINMUX. -/
theorem exec_lu_ext {i : Instr} {s t : State} (hi : i.isCommand = false) (h : exec i s = .next t) :
    (i ≠ .clken → t.extClken = s.extClken) ∧ (i ≠ .pinmux → t.extPinmux = s.extPinmux) := by
  cases i with
  | init => cases hi
  | write => cases hi
  | read => cases hi
  | writeRegs => cases hi
  | readRegs => cases hi
  | clken => cases h; exact ⟨fun hn => absurd rfl hn, fun _ => rfl⟩
  | pinmux => cases h; exact ⟨fun _ => rfl, fun hn => absurd rfl hn⟩
  | swrst => obtain ⟨-, h⟩ := whenClocked_eq_next.mp h; cases h; exact ⟨fun _ => rfl, fun _ => rfl⟩
  | setmode => obtain ⟨-, -, h⟩ := whenDisabled_eq_next.mp h; cases h; exact ⟨fun _ => rfl, fun _ => rfl⟩
  | setbaud d => obtain ⟨-, -, h⟩ := whenDisabled_eq_next.mp h; cases h; exact ⟨fun _ => rfl, fun _ => rfl⟩
  | enable => obtain ⟨-, h⟩ := whenClocked_eq_next.mp h; cases h; exact ⟨fun _ => rfl, fun _ => rfl⟩
  | snap => obtain ⟨-, rfl⟩ := snap_inv h; exact ⟨fun _ => rfl, fun _ => rfl⟩
  | errclr => obtain ⟨-, -, rfl⟩ := errclr_inv h; exact ⟨fun _ => rfl, fun _ => rfl⟩
  | forceidle => obtain ⟨-, -, rfl⟩ := forceidle_inv h; exact ⟨fun _ => rfl, fun _ => rfl⟩
  | start => obtain ⟨-, -, rfl⟩ := start_inv h; exact ⟨fun _ => rfl, fun _ => rfl⟩
  | addr b => obtain ⟨-, -, rfl⟩ := addr_inv h; exact ⟨fun _ => rfl, fun _ => rfl⟩
  | tx b => obtain ⟨-, -, rfl⟩ := tx_inv h; exact ⟨fun _ => rfl, fun _ => rfl⟩
  | rx a => obtain ⟨-, -, -, rfl⟩ := rx_inv h; exact ⟨fun _ => rfl, fun _ => rfl⟩
  | stop => obtain ⟨-, -, rfl⟩ := stop_inv h; exact ⟨fun _ => rfl, fun _ => rfl⟩

/-- SNAP reads. -/
theorem snap_leaves {s t : State} (h : exec .snap s = .next t) :
    t.lu = s.lu ∧ t.trace = s.trace ∧ t.held = s.held := by
  obtain ⟨-, rfl⟩ := snap_inv h
  exact ⟨rfl, rfl, rfl⟩

/-- Settles O18: the shape of what an operation can write leaves the rest, and its effect bounds what it does write. -/
theorem lineUnitFrame : Obligations.LineUnitFrame := by
  intro i s t hi h
  obtain ⟨-, -, hheld, htrace⟩ := exec_lu_effect hi h
  obtain ⟨hck, hpm⟩ := exec_lu_ext hi h
  have hsnap : i = .snap → t.lu = s.lu ∧ t.trace = s.trace ∧ t.held = s.held := by
    rintro rfl
    exact snap_leaves h
  obtain ⟨_, _, _, _, _, _, _, rfl⟩ := exec_lu_shape hi h
  exact ⟨⟨rfl, rfl, rfl⟩, ⟨rfl, rfl, rfl, rfl, rfl, rfl⟩, ⟨rfl, rfl, rfl, rfl, rfl, rfl, rfl, rfl⟩, fun _ => rfl,
    ⟨rfl, rfl, rfl, rfl, rfl, rfl, rfl, rfl⟩, rfl, rfl, hheld, htrace, hck, hpm, hsnap⟩

end Sys2Proof.Machine
end

section
/-! PROOF. One poll of the address wait and of the two data waits (40_line_unit_ops R103 to R106), what follows it
(42_write R121, R123, 43_read R141), and the end of a phase and of a command (44_register_access R169, 60_exceptions
R197). -/

namespace Sys2Proof.Machine

/-! ### The end of a phase and the heads of the loops -/

/-- READ_REGS goes from its write phase to its read phase; every other phase ends the command. -/
theorem afterPhase_goes (s : State) :
    (afterPhase s).phase = (if s.op = opReadRegs ∧ s.stage = false then .start else .done) ∧
      (afterPhase s).stage = (if s.op = opReadRegs ∧ s.stage = false then true else s.stage) := by
  obtain ⟨hop, hst, e⟩ | ⟨hn, e⟩ := afterPhase_cases s
  · rw [e, if_pos ⟨hop, hst⟩, if_pos ⟨hop, hst⟩]
    exact ⟨rfl, rfl⟩
  · rw [e, if_neg hn, if_neg hn]
    exact ⟨rfl, rfl⟩

theorem writeLoop_of_more {s : State} (h : s.idx.toNat < s.streamLen) : writeLoop s = s.setPhase .txbyte := if_pos h

theorem writeLoop_of_end_held {s : State} (h : s.streamLen ≤ s.idx.toNat) (hh : s.holds = true) :
    writeLoop s = afterPhase ((s.setHeld true).setRet s.idx) :=
  (if_neg (Nat.not_lt.mpr h)).trans (if_pos hh)

theorem writeLoop_of_end {s : State} (h : s.streamLen ≤ s.idx.toNat) (hh : s.holds = false) :
    writeLoop s = endWithStop s s.idx :=
  (if_neg (Nat.not_lt.mpr h)).trans (if_neg (Bool.eq_false_iff.mp hh))

theorem readLoop_of_more {s : State} (h : s.idx.toNat < s.len) : readLoop s = startWait s .rxwait := if_pos h

theorem readLoop_of_end {s : State} (h : s.len ≤ s.idx.toNat) : readLoop s = endWithStop s s.idx :=
  if_neg (Nat.not_lt.mpr h)

/-- A held end: HELD is set, IDX is the count, and the phase is over. -/
theorem writeLoop_held_end {s : State} (h : s.streamLen ≤ s.idx.toNat) (hh : s.holds = true) :
    (writeLoop s).held = true ∧ (writeLoop s).ret = s.idx ∧
      (writeLoop s).phase = (if s.op = opReadRegs ∧ s.stage = false then .start else .done) ∧
      (writeLoop s).stage = (if s.op = opReadRegs ∧ s.stage = false then true else s.stage) := by
  rw [writeLoop_of_end_held h hh]
  obtain ⟨hphase, hstage⟩ := afterPhase_goes ((s.setHeld true).setRet s.idx)
  exact ⟨by simp, by simp, hphase, hstage⟩

/-! ### What a poll says -/

theorem Snapshot.answer_of_nack {p : Snapshot} (h : p.rxNack = true) : p.answer = .nack := by simp [answer, h]

theorem Snapshot.answer_of_ack {p : Snapshot} (h : p.rxNack = false) : p.answer = .ack := by simp [answer, h]

/-- Where the address phase is over: its byte completed, or in a read the first data byte has come already. -/
def AddrComplete (s : State) : Prop := s.snap.txDone = true ∨ (s.isRead = true ∧ s.snap.rxRdy = true)

/-! ### The address wait -/

theorem addrPoll_of_complete {s : State} (h : AddrComplete s) :
    (if s.isRead then waitAddrR s.snap else waitAddrW s.snap) = s.snap.answer := by
  unfold waitAddrR waitAddrW
  obtain hd | ⟨hr, hx⟩ := h
  · simp [hd]
  · simp [hr, hx]

theorem addrPoll_of_pending {s : State} (hd : s.snap.txDone = false) (hr : s.isRead = false ∨ s.snap.rxRdy = false) :
    (if s.isRead then waitAddrR s.snap else waitAddrW s.snap) = .again := by
  unfold waitAddrR waitAddrW
  obtain hr | hx := hr
  · simp [hr, hd]
  · simp [hd, hx]

theorem testAddrwait_of_pending {s : State} (hd : s.snap.txDone = false)
    (hr : s.isRead = false ∨ s.snap.rxRdy = false) : testAddrwait s = s := by
  rw [testAddrwait, addrPoll_of_pending hd hr]

theorem testAddrwait_of_nack {s : State} (h : AddrComplete s) (hn : s.snap.rxNack = true) :
    testAddrwait s = failAddr s := by
  rw [testAddrwait, addrPoll_of_complete h, Snapshot.answer_of_nack hn]

theorem testAddrwait_of_ack_read {s : State} (h : AddrComplete s) (hn : s.snap.rxNack = false)
    (hr : s.isRead = true) : testAddrwait s = readLoop (s.setIdx 0) := by
  rw [testAddrwait, addrPoll_of_complete h, Snapshot.answer_of_ack hn]
  exact if_pos hr

theorem testAddrwait_of_ack_write {s : State} (h : AddrComplete s) (hn : s.snap.rxNack = false)
    (hr : s.isRead = false) : testAddrwait s = writeLoop (s.setIdx 0) := by
  rw [testAddrwait, addrPoll_of_complete h, Snapshot.answer_of_ack hn]
  exact if_neg (Bool.eq_false_iff.mp hr)

theorem seqStep_addrwait_tests {s : State} (hp : s.phase = .addrwait) (hc : s.extClken = true) :
    seqStep s = .next (testAddrwait (s.setSnap s.lu.snapshot)) := by
  simp [seqStep, hp, issue_snap hc]

/-- Whichever loop an acknowledged address enters, it enters at IDX = 0 with FAIL as it was. -/
theorem testAddrwait_of_ack_keeps {s : State} (h : AddrComplete s) (hn : s.snap.rxNack = false) :
    (testAddrwait s).idx = 0 ∧ (testAddrwait s).fail = s.fail := by
  cases hr : s.isRead with
  | true => simp [testAddrwait_of_ack_read h hn hr]
  | false => simp [testAddrwait_of_ack_write h hn hr]

/-- Settles O29: one SNAP, the poll it answers, and the head of the data loop at IDX = 0. -/
theorem addressWaitPoll : Obligations.AddressWaitPoll := by
  intro s hp hc
  have hk := kept_testAddrwait (s.setSnap s.lu.snapshot)
  obtain ⟨hops, hbuf⟩ := hk.sameInputs False
  refine ⟨_, seqStep_addrwait_tests hp hc, hk.lu_eq, hk.trace_eq, hbuf id,
    fun hd hr => testAddrwait_of_pending hd hr, fun h hn => testAddrwait_of_nack h hn, fun h hn => ?_⟩
  obtain ⟨hidx, hfail⟩ := testAddrwait_of_ack_keeps (s := s.setSnap s.lu.snapshot) h hn
  have read := testAddrwait_of_ack_read (s := s.setSnap s.lu.snapshot) h hn
  have write := testAddrwait_of_ack_write (s := s.setSnap s.lu.snapshot) h hn
  refine ⟨hidx, hfail, hops, fun hr hl => ?_, fun hr hl => ?_, fun hr hl => ?_, fun hr hl hh => ?_,
    fun hr hl hh => ?_⟩
  · rw [read hr, readLoop_of_more (by simpa using hl)]
    exact ⟨rfl, rfl, rfl, rfl⟩
  · rw [read hr, readLoop_of_end (by simp [hl])]
    exact ⟨rfl, rfl, rfl, rfl⟩
  · rw [write hr, writeLoop_of_more (by simpa using hl)]
    exact ⟨rfl, rfl, rfl⟩
  · rw [write hr, writeLoop_of_end (by simp [hl]) (by simpa using hh)]
    exact ⟨rfl, rfl, rfl, rfl⟩
  · rw [write hr]
    exact writeLoop_held_end (Nat.le_of_eq hl) hh

/-! ### The data waits -/

theorem seqStep_txwait_tests {s : State} (hp : s.phase = .txwait) (hc : s.extClken = true) :
    seqStep s = .next (testTxwait (s.setSnap s.lu.snapshot)) := by
  simp [seqStep, hp, issue_snap hc]

theorem seqStep_rxwait_tests {s : State} (hp : s.phase = .rxwait) (hc : s.extClken = true) :
    seqStep s = .next (testRxwait (s.setSnap s.lu.snapshot)) := by
  simp [seqStep, hp, issue_snap hc]

theorem countPoll_of_more {s : State} (h : s.retry - 1 ≠ 0) : countPoll s = s.setRetry (s.retry - 1) := if_neg h

theorem countPoll_of_last {s : State} (h : s.retry - 1 = 0) :
    countPoll s = failLoop (s.setRetry 0) .pollTimeout := by
  simp [countPoll, h]

theorem testTxwait_of_busErr {s : State} (hb : s.snap.busErr = true) : testTxwait s = failLoop s .busError := by
  simp [testTxwait, waitTx, hb]

theorem testTxwait_of_nack {s : State} (hb : s.snap.busErr = false) (hd : s.snap.txDone = true)
    (hn : s.snap.rxNack = true) : testTxwait s = failLoop s .dataNack := by
  simp [testTxwait, waitTx, hb, hd, Snapshot.answer_of_nack hn]

theorem testTxwait_of_ack {s : State} (hb : s.snap.busErr = false) (hd : s.snap.txDone = true)
    (hn : s.snap.rxNack = false) : testTxwait s = writeLoop (s.setIdx (s.idx + 1)) := by
  simp [testTxwait, waitTx, hb, hd, Snapshot.answer_of_ack hn]

theorem testTxwait_of_pending {s : State} (hb : s.snap.busErr = false) (hd : s.snap.txDone = false) :
    testTxwait s = countPoll s := by
  simp [testTxwait, waitTx, hb, hd]

theorem testRxwait_of_busErr {s : State} (hb : s.snap.busErr = true) : testRxwait s = failLoop s .busError := by
  simp [testRxwait, waitRx, hb]

theorem testRxwait_of_ready {s : State} (hb : s.snap.busErr = false) (hr : s.snap.rxRdy = true) :
    testRxwait s = s.setPhase .rxbyte := by
  simp [testRxwait, waitRx, hb, hr]

theorem testRxwait_of_pending {s : State} (hb : s.snap.busErr = false) (hr : s.snap.rxRdy = false) :
    testRxwait s = countPoll s := by
  simp [testRxwait, waitRx, hb, hr]

/-- Settles O30: the poll's four outcomes, and the head of the write loop after an acknowledged byte. -/
theorem transmitWaitPoll : Obligations.TransmitWaitPoll := by
  intro s hp hc
  rw [seqStep_txwait_tests hp hc]
  refine ⟨fun hb => ?_, fun hb hd hn => ?_, fun hb hd hn => ?_, fun hb hd hm => ?_, fun hb hd hl => ?_⟩
  · exact congrArg _ (testTxwait_of_busErr hb)
  · exact congrArg _ (testTxwait_of_nack hb hd hn)
  · rw [testTxwait_of_ack hb hd hn]
    refine ⟨_, rfl, by simp, by simp, by simp, by simp, fun hl => ?_, fun hl hh => ?_, fun hl hh => ?_⟩
    · rw [writeLoop_of_more (by simpa using hl)]
      exact ⟨rfl, rfl⟩
    · rw [writeLoop_of_end (by simpa using hl) (by simpa using hh)]
      exact ⟨rfl, rfl⟩
    · exact writeLoop_held_end hl hh
  · exact congrArg _ (Eq.trans (testTxwait_of_pending hb hd) (countPoll_of_more hm))
  · exact congrArg _ (Eq.trans (testTxwait_of_pending hb hd) (countPoll_of_last hl))

/-- Settles O31: the poll's three outcomes, with the counter of a missing byte. -/
theorem receiveWaitPoll : Obligations.ReceiveWaitPoll := by
  intro s hp hc
  rw [seqStep_rxwait_tests hp hc]
  refine ⟨fun hb => ?_, fun hb hr => ?_, fun hb hr hm => ?_, fun hb hr hl => ?_⟩
  · exact congrArg _ (testRxwait_of_busErr hb)
  · exact congrArg _ (testRxwait_of_ready hb hr)
  · exact congrArg _ (Eq.trans (testRxwait_of_pending hb hr) (countPoll_of_more hm))
  · exact congrArg _ (Eq.trans (testRxwait_of_pending hb hr) (countPoll_of_last hl))

/-! ### STOP and DONE -/

theorem seqStep_stop_ends {s : State} (hp : s.phase = .stop) (hc : s.extClken = true) (he : s.lu.enable = true) :
    seqStep s = .next (afterPhase (((s.setLu s.lu.stop).setHeld false).emit .stop)) := by
  simp [seqStep, hp, issue, exec_stop hc he]

/-- Settles O34: STOP and `afterPhase`, then `finish`. -/
theorem phaseAndCommandEnd : Obligations.PhaseAndCommandEnd := by
  intro s
  refine ⟨fun hp hc he => ?_, fun hp => ?_⟩
  · obtain ⟨hrelease, -⟩ := s.lu.stop_busState
    obtain ⟨hphase, hstage⟩ := afterPhase_goes (((s.setLu s.lu.stop).setHeld false).emit .stop)
    refine ⟨_, seqStep_stop_ends hp hc he, by simp, by simp, by simp, by simp, ?_, fun h => ?_, fun h => ?_⟩
    · simpa using hrelease
    · exact ⟨hphase.trans (if_pos h), hstage.trans (if_pos h)⟩
    · exact ⟨hphase.trans (if_neg h), hstage.trans (if_neg h)⟩
  · simp only [seqStep, hp]
    rfl

end Sys2Proof.Machine
end

section
/-! PROOF. The bus agent's moves (40_line_unit_ops R96 to R101) and the clock divider (R109, 60_exceptions R203). -/

namespace Sys2Proof.Machine

/-! ### The bus agent -/

theorem Ack.isNack_eq (k : Ack) : Ack.isNack k = decide (k = .nack) := by cases k <;> rfl

/-- "acts only while LU_CTRL.ENABLE = 1" (R95). -/
theorem BusMove.enabled_of_disabled {u : LineUnit} (h : u.enable = false) (m : BusMove) : m.enabled u = false := by
  simp [BusMove.enabled, h]

/-- While ENABLE = 1 a move's own precondition decides. -/
theorem BusMove.apply_of_iff {m : BusMove} {u : LineUnit} {p : Prop} [Decidable p] (h : m.enabled u = true ↔ p) :
    m.apply u = if p then m.effect u else u := if_congr h rfl rfl

/-- Settles O56: each move's precondition read off, and its effect. -/
theorem busAgentMoves : Obligations.BusAgentMoves := by
  intro u
  refine ⟨fun he m => if_neg (Bool.eq_false_iff.mp (BusMove.enabled_of_disabled he m)),
    fun he => ⟨fun k => ?_, ?_, ?_, fun v => ?_, ?_, ?_, fun b => ?_⟩⟩
  · rw [BusMove.apply_of_iff (p := u.pend = .addrw ∨ u.pend = .txb) (by simp [BusMove.enabled, he]), ← Ack.isNack_eq]
    rfl
  · exact BusMove.apply_of_iff (by simp [BusMove.enabled, he])
  · exact BusMove.apply_of_iff (by simp [BusMove.enabled, he])
  · exact BusMove.apply_of_iff (by simp [BusMove.enabled, he])
  · exact BusMove.apply_of_iff (by simp [BusMove.enabled, he])
  · exact if_pos (by simp [BusMove.enabled, he])
  · exact if_pos (by simp [BusMove.enabled, he])

theorem applyMoves_append (ms ms' : List EnvMove) (s : State) :
    applyMoves (ms ++ ms') s = applyMoves ms' (applyMoves ms s) := List.foldl_append

/-! ### The clock divider -/

theorem divTick_of_running {s : State} (hc : s.extClken = true) (h : s.divCnt ≠ 0) :
    divTick s = { s with divCnt := s.divCnt - 1 } :=
  (if_pos hc).trans (if_neg h)

theorem divTick_of_zero {s : State} (hc : s.extClken = true) (h : s.divCnt = 0) :
    divTick s = { s with divCnt := s.lu.div, sclHalf := !s.sclHalf } :=
  (if_pos hc).trans (if_pos h)

/-- A counter that can go down `j + 1` times is not 0, and after one count can go down `j` more. -/
theorem divCnt_counts {c : BitVec 8} {j : Nat} (h : j + 1 ≤ c.toNat) :
    c ≠ 0 ∧ j ≤ (c - 1).toNat ∧ c - 1 - BitVec.ofNat 8 j = c - BitVec.ofNat 8 (j + 1) := by
  have hlt := c.isLt
  refine ⟨?_, ?_, ?_⟩ <;> bv_omega

/-- As long as the counter has not run out, `j` cycles count it down by `j` and do nothing else. -/
theorem applyMoves_sysClock {s : State} (hc : s.extClken = true) {j : Nat} (hj : j ≤ s.divCnt.toNat) :
    applyMoves (List.replicate j .sysClock) s = { s with divCnt := s.divCnt - BitVec.ofNat 8 j } := by
  induction j generalizing s with
  | zero => simp
  | succ j ih =>
    obtain ⟨hne, hpred, hsub⟩ := divCnt_counts hj
    calc applyMoves (List.replicate (j + 1) .sysClock) s
        = applyMoves (List.replicate j .sysClock) (divTick s) := rfl
      _ = applyMoves (List.replicate j .sysClock) { s with divCnt := s.divCnt - 1 } := by
          rw [divTick_of_running hc hne]
      _ = { s with divCnt := s.divCnt - 1 - BitVec.ofNat 8 j } := ih hc hpred
      _ = { s with divCnt := s.divCnt - BitVec.ofNat 8 (j + 1) } := by rw [hsub]

/-- Settles O57: DIV cycles run the counter to 0, and one more reloads it and ends the half period. -/
theorem dividerHalfPeriod : Obligations.DividerHalfPeriod := by
  intro s hc hd
  have count {j : Nat} (hj : j ≤ s.lu.div.toNat) := applyMoves_sysClock hc (hd ▸ hj)
  refine ⟨?_, fun j hj => by rw [count hj]⟩
  have hzero : s.divCnt - BitVec.ofNat 8 s.lu.div.toNat = 0 := by simp [hd]
  calc applyMoves (List.replicate (s.lu.div.toNat + 1) .sysClock) s
      = divTick (applyMoves (List.replicate s.lu.div.toNat .sysClock) s) := by
        rw [List.replicate_succ', applyMoves_append]; rfl
    _ = divTick { s with divCnt := 0 } := by rw [count le_rfl, hzero]
    _ = { s with divCnt := s.lu.div, sclHalf := !s.sclHalf } := divTick_of_zero hc rfl
    _ = { s with sclHalf := !s.sclHalf } := by rw [← hd]

/-- Refutes O10: 48 MHz and 350,000 Hz make a quotient of 68, and with it 352,941 Hz. -/
theorem not_sclNeverFaster : ¬ Obligations.SclNeverFaster := by
  intro h
  have hle := h ⟨48000000, 1, 0, 1, 1, 0⟩ 350000 (by decide)
  exact absurd hle (by decide)

end Sys2Proof.Machine
end

section
/-! PROOF. The levels and the conditions on the wires (40_line_unit_ops R108): a byte is nine pulses of SCL at the
levels the two sides let through, and between two events no condition can arise. -/

namespace Sys2Proof.Machine

/-! ### The levels of a byte on the wires -/

/-- SDA at one level through one pulse of SCL. -/
def bitWave (level : Bool) : List Wire := [⟨level, false⟩, ⟨level, true⟩, ⟨level, false⟩]

/-- Pulses of SCL with SDA at these levels, one after the other. -/
def byteWave (levels : List Bool) : List Wire := levels.flatMap bitWave

/-- A bit is high on the wire where neither side pulls it low. -/
theorem wave_pulse (b b' : Bool) : List.zipWith Wire.join (pulse (!b)) (devicePulse b') = bitWave (b && b') := by
  cases b <;> cases b' <;> rfl

theorem wave_pulses (bits bits' : List Bool) (h : bits.length = bits'.length) :
    List.zipWith Wire.join (pulses bits) (bits'.flatMap devicePulse) = byteWave (List.zipWith and bits bits') := by
  induction bits generalizing bits' with
  | nil => rfl
  | cons b bits ih =>
    cases bits' with
    | nil => cases h
    | cons b' bits' =>
      have hcons : pulses (b :: bits) = pulse (!b) ++ pulses bits := rfl
      have hlen : (pulse (!b)).length = (devicePulse b').length := rfl
      rw [hcons, List.flatMap_cons, List.zipWith_append hlen, wave_pulse, ih bits' (Nat.succ.inj h)]
      rfl

/-- A transmitted byte: the device releases SDA for its bits and answers. -/
theorem wave_tx (b : Byte) (k : Ack) : Event.wave (.tx b) k = byteWave (bitsMsb b ++ [Ack.isNack k]) :=
  (wave_pulses (bitsMsb b ++ [true]) [true, true, true, true, true, true, true, true, Ack.isNack k] rfl).trans
    (by simp [bitsMsb])

theorem wave_addr (b : Byte) (k : Ack) : Event.wave (.addr b) k = byteWave (bitsMsb b ++ [Ack.isNack k]) :=
  wave_tx b k

/-- A received byte: the master releases SDA for its bits and answers. -/
theorem wave_rx (v : Byte) (a k : Ack) : Event.wave (.rx v a) k = byteWave (bitsMsb v ++ [Ack.isNack a]) :=
  (wave_pulses [true, true, true, true, true, true, true, true, Ack.isNack a] (bitsMsb v ++ [true]) rfl).trans
    (by simp [bitsMsb])

/-- A receiver samples the levels the pulses carry. -/
theorem samples_byteWave (levels : List Bool) : samples (byteWave levels) = levels := by
  induction levels with
  | nil => rfl
  | cons b levels ih =>
    simp only [samples, byteWave] at ih
    simp [samples, byteWave, bitWave, ih]

/-- Settles O59: nine pulses, and the ninth carries the receiver's answer. -/
theorem acknowledgeDetector : Obligations.AcknowledgeDetector := by
  intro b k a
  rw [wave_tx, wave_addr, wave_rx, detectNack, samples_byteWave, samples_byteWave, Ack.isNack_eq, Ack.isNack_eq]
  exact ⟨rfl, rfl, rfl, rfl⟩

/-! ### The conditions on the wires -/

/-- The line is at rest where no condition can begin or end: SCL is low, or both wires are high. -/
def Wire.AtRest (w : Wire) : Prop := w.scl = true → w.sda = true

/-- A waveform that begins and ends at rest, as every event's does. -/
def EndsAtRest (ws : List Wire) : Prop := (∀ w ∈ ws.head?, w.AtRest) ∧ ∀ w ∈ ws.getLast?, w.AtRest

theorem EndsAtRest.of_ends {ws : List Wire} {a b : Wire} (ha : ws.head? = some a) (hb : ws.getLast? = some b)
    (hra : a.AtRest) (hrb : b.AtRest) : EndsAtRest ws := by
  simpa [EndsAtRest, ha, hb] using ⟨hra, hrb⟩

theorem conditionOf_atRest {a b : Wire} (ha : a.AtRest) (hb : b.AtRest) : conditionOf a b = none := by
  obtain ⟨sda, scl⟩ := a
  obtain ⟨sda', scl'⟩ := b
  simp only [Wire.AtRest] at ha hb
  cases scl <;> cases scl' <;> simp_all [conditionOf]

/-- Where two waveforms meet at rest, the conditions are those of each. -/
theorem conditions_append {l l' : List Wire} (h : ∀ w ∈ l.getLast?, w.AtRest) (h' : ∀ w ∈ l'.head?, w.AtRest) :
    conditions (l ++ l') = conditions l ++ conditions l' := by
  induction l with
  | nil => rfl
  | cons a l ih =>
    cases l with
    | nil =>
      cases l' with
      | nil => rfl
      | cons b l' =>
        have ha : a.AtRest := h a rfl
        simp [conditions, conditionOf_atRest ha (h' b rfl)]
    | cons b l =>
      have tail := ih (by simpa using h)
      calc conditions (a :: b :: l ++ l')
          = (conditionOf a b).toList ++ conditions (b :: l ++ l') := rfl
        _ = conditions (a :: b :: l) ++ conditions l' := by rw [tail, ← List.append_assoc]; rfl

theorem EndsAtRest.append {l l' : List Wire} (h : EndsAtRest l) (h' : EndsAtRest l') : EndsAtRest (l ++ l') := by
  refine ⟨fun w hw => ?_, fun w hw => ?_⟩
  · rw [List.head?_append] at hw
    cases l with
    | nil => exact h'.1 w hw
    | cons a l => exact h.1 w hw
  · rw [List.getLast?_append] at hw
    cases e : l'.getLast? with
    | none => rw [e] at hw; exact h.2 w hw
    | some a => rw [e] at hw; exact h'.2 w (e ▸ hw)

/-- Waveforms that begin and end at rest, in sequence: so does the whole, and it has their conditions. -/
theorem conditions_flatMap {α : Type} {f : α → List Wire} {c : α → List Condition} (l : List α)
    (h : ∀ x, EndsAtRest (f x) ∧ conditions (f x) = c x) :
    EndsAtRest (l.flatMap f) ∧ conditions (l.flatMap f) = l.flatMap c := by
  induction l with
  | nil => exact ⟨⟨nofun, nofun⟩, rfl⟩
  | cons x l ih =>
    obtain ⟨hrest, hcond⟩ := ih
    obtain ⟨hrest', hcond'⟩ := h x
    rw [List.flatMap_cons, List.flatMap_cons, conditions_append hrest'.2 hrest.1, hcond, hcond']
    exact ⟨hrest'.append hrest, rfl⟩

/-- SDA changes only while SCL is low, so the pulses of a byte make no condition. -/
theorem byteWave_conditions (levels : List Bool) :
    EndsAtRest (byteWave levels) ∧ conditions (byteWave levels) = [] := by
  have bit (b : Bool) : EndsAtRest (bitWave b) ∧ conditions (bitWave b) = [] :=
    ⟨.of_ends rfl rfl nofun nofun, by cases b <;> rfl⟩
  obtain ⟨hrest, hcond⟩ := conditions_flatMap levels bit
  exact ⟨hrest, hcond.trans (List.flatMap_eq_nil_iff.mpr fun _ _ => rfl)⟩

/-- An event makes the condition it stands for, once, and no other. -/
theorem wave_conditions (e : Event) (k : Ack) :
    EndsAtRest (e.wave k) ∧ conditions (e.wave k) = e.condition.toList := by
  cases e with
  | addr b => rw [wave_addr]; exact byteWave_conditions _
  | tx b => rw [wave_tx]; exact byteWave_conditions _
  | rx v a => rw [wave_rx]; exact byteWave_conditions _
  | start r =>
    cases r with
    | false => exact ⟨.of_ends rfl rfl (fun _ => rfl) nofun, rfl⟩
    | true => exact ⟨.of_ends rfl rfl nofun nofun, rfl⟩
  | stop => exact ⟨.of_ends rfl rfl nofun (fun _ => rfl), rfl⟩
  | _ => exact ⟨⟨nofun, nofun⟩, rfl⟩

/-- Settles O58: between two events the line is at rest, so the conditions of a run are those of its events. -/
theorem wireConditions : Obligations.WireConditions := by
  intro es
  obtain ⟨-, h⟩ := conditions_flatMap es fun x => wave_conditions x.1 x.2
  exact h.trans (List.filterMap_eq_flatMap_toList _ es).symm

end Sys2Proof.Machine
end

section
/-! PROOF. A fair agent ends the address wait of a write (40_line_unit_ops R102, R103): the byte in flight keeps
BA.TxDone enabled, and the poll after that move sees the byte complete. -/

namespace Sys2Proof.Machine

/-! ### What the agent's turn does to the byte in flight -/

theorem BusMove.apply_keeps_txDone (m : BusMove) {u : LineUnit} (h : u.txDone = true) : (m.apply u).txDone = true := by
  unfold BusMove.apply
  split
  · cases m with
    | addrRead k => cases k <;> simp [BusMove.effect, h]
    | _ => simp [BusMove.effect, h]
  · exact h

/-- A move BA.TxDone that is enabled completes the byte. -/
theorem BusMove.apply_txDone {m : BusMove} {u : LineUnit} (hm : m.moveClass = some .txDone)
    (he : m.enabled u = true) : (m.apply u).txDone = true := by
  cases m with
  | txDone k => simp [BusMove.apply, he, BusMove.effect]
  | _ => cases hm

/-- A write's address byte stays in flight until it completes. -/
theorem BusMove.apply_addrw (m : BusMove) {u : LineUnit} (h : u.pend = .addrw ∨ u.txDone = true) :
    (m.apply u).pend = .addrw ∨ (m.apply u).txDone = true := by
  obtain h | h := h
  · unfold BusMove.apply
    split
    · next he => cases m <;> simp_all [BusMove.enabled, BusMove.effect]
    · exact .inl h
  · exact .inr (m.apply_keeps_txDone h)

/-- A taken BA.TxDone shows after the turn, whatever the agent does next. -/
theorem envTurn_txDone_of_taken {s : State} (he : s.lu.enable = true) (h : Taken .txDone s) :
    (envTurn s).lu.txDone = true := by
  obtain ⟨pre, m, post, hslot, hm, hen⟩ := h
  have hturn : (envTurn s).lu = (applyMoves s.slot s).lu := by simp [envTurn, State.envAlive, he]
  rw [hturn, hslot, applyMoves_append, applyMoves_cons]
  refine applyMoves_induct (P := fun u => u.lu.txDone = true) (fun m' _ u hu => ?_) (BusMove.apply_txDone hm hen)
  obtain ⟨b, -, e⟩ | ⟨-, _, _, e⟩ := m'.apply_cases u <;> rw [e]
  · exact b.apply_keeps_txDone hu
  · exact hu

/-! ### The wait -/

/-- A write waits for its address byte, which is in flight. -/
structure AwaitsAddrw (s : State) : Prop where
  port : s.luPort = none
  phase : s.phase = .addrwait
  write : s.isRead = false
  clocked : s.extClken = true
  enabled : s.lu.enable = true
  pend : s.lu.pend = .addrw

theorem envTurn_enable (s : State) : (envTurn s).lu.enable = s.lu.enable :=
  envTurn_lu_induct (Q := fun u => u.enable = s.lu.enable)
    (fun b _ u hu => (b.apply_keeps u).1.trans hu) rfl

/-- A step of the wait is one poll of the line unit as the turn left it. -/
theorem AwaitsAddrw.step_eq {s : State} (h : AwaitsAddrw s) :
    step s = .next (testAddrwait ((envTurn s).setSnap (envTurn s).lu.snapshot)) := by
  have hseq := seqStep_addrwait_tests (s := envTurn s) (by simp [h.phase]) (by simp [h.clocked])
  simpa [step, fetchStep, h.port, h.phase] using hseq

/-- A poll that sees the byte complete leaves the wait. -/
theorem testAddrwait_leaves {s : State} (hr : s.isRead = false) (hd : s.snap.txDone = true) :
    (testAddrwait s).phase ≠ .addrwait := by
  cases hn : s.snap.rxNack with
  | true => simp [testAddrwait_of_nack (.inl hd) hn]
  | false =>
    rw [testAddrwait_of_ack_write (.inl hd) hn hr]
    intro hp
    exact absurd (hp ▸ writeLoop_phase (s.setIdx 0)) (by decide)

/-- A turn that completes the byte ends the wait. -/
theorem AwaitsAddrw.leaves {s t : State} (h : AwaitsAddrw s) (hs : step s = .next t)
    (hd : (envTurn s).lu.txDone = true) : t.phase ≠ .addrwait := by
  cases h.step_eq.symm.trans hs
  exact testAddrwait_leaves (by simp [h.write]) hd

/-- A step that does not leave the wait leaves the byte in flight. -/
theorem AwaitsAddrw.stays {s t : State} (h : AwaitsAddrw s) (hs : step s = .next t) (hp : t.phase = .addrwait) :
    AwaitsAddrw t := by
  have hd : (envTurn s).lu.txDone = false := by
    by_contra hd
    exact h.leaves hs (by simpa using hd) hp
  have hpend : (envTurn s).lu.pend = .addrw :=
    (envTurn_lu_induct (Q := fun u => u.pend = .addrw ∨ u.txDone = true) (fun b _ _ => b.apply_addrw)
      (.inl h.pend)).resolve_right (by simp [hd])
  have e := h.step_eq.symm.trans hs
  rw [testAddrwait_of_pending hd (.inl (by simp [h.write]))] at e
  cases e
  exact ⟨by simp [h.port], by simp [h.phase], by simp [h.write], by simp [h.clocked],
    (envTurn_enable s).trans h.enabled, hpend⟩

/-- Settles O53: a wait that never ended would keep BA.TxDone enabled, so that a fair agent takes it. -/
theorem fairAddressWaitEnds : Obligations.FairAddressWaitEnds := by
  intro r n hrun hfair hport hphase hwrite hclk hen hpend
  by_contra hleft
  have stay (k : Nat) (hk : n ≤ k) : (r k).phase = .addrwait := by
    by_contra hp
    exact hleft ⟨k, hk, hp⟩
  have wait (k : Nat) (hk : n ≤ k) : AwaitsAddrw (r k) := by
    induction k, hk using Nat.le_induction with
    | base => exact ⟨hport, hphase, hwrite, hclk, hen, hpend⟩
    | succ k hk ih => exact ih.stays (hrun k) (stay (k + 1) (Nat.le_succ_of_le hk))
  obtain ⟨k, hk, htaken⟩ := hfair .txDone n fun k hk => by
    simp [MoveClass.enabled, BusMove.enabled, (wait k hk).enabled, (wait k hk).pend]
  exact (wait k hk).leaves (hrun k) (envTurn_txDone_of_taken (wait k hk).enabled htaken)
    (stay (k + 1) (Nat.le_succ_of_le hk))

end Sys2Proof.Machine
end

section
/-! PROOF. The state INIT leaves (41_initialize R110 to R113), and the frame of the five commands. -/

namespace Sys2Proof.Machine

/-- Settles O19: INIT's three checks pass, and its six operations run to the end. -/
theorem initCompletes : Obligations.InitCompletes := by
  intro s baud hp hi hb
  have hidle : ¬ s.phase ≠ .idle := not_not_intro hp
  exact (if_neg hidle).trans (whenInitLegal_eq_next.mpr ⟨hi, hb, bringUp_eq _⟩)

/-- INIT answers one next state only, that of R113. -/
theorem init_frame {baud : BitVec 32} {s t : State} (h : exec (.init baud) s = .next t) :
    SameBuf s t ∧ SameRest s t ∧ SameHostRegs s t ∧ t.idx = s.idx ∧ t.retry = s.retry ∧ t.fr0 = s.fr0
      ∧ t.fr1 = s.fr1 ∧ t.stage = s.stage := by
  obtain ⟨hp, hi, hb, -⟩ := init_inv h
  cases h.symm.trans (initCompletes s baud hp hi hb)
  exact ⟨fun _ => rfl, ⟨rfl, rfl, rfl, rfl, rfl, rfl, rfl, rfl⟩, ⟨rfl, rfl, rfl⟩, rfl, rfl, rfl, rfl, rfl⟩

/-- A launch writes the operands, RESULT, the frame, STAGE and PHASE. -/
theorem transfer_frame {i : Instr} {s t : State} (hi : i.isCommand = true) (hn : ∀ b, i ≠ .init b)
    (h : exec i s = .next t) :
    SameBuf s t ∧ SameRest s t ∧ t.cmd = s.cmd ∧ t.idx = s.idx ∧ t.retry = s.retry ∧ t.lu = s.lu
      ∧ t.held = s.held ∧ t.inited = s.inited ∧ t.trace = s.trace ∧ SameExt s t ∧ t.baudrate = s.baudrate := by
  obtain ⟨-, -, -, -, _, _, _, _, _, _, _, _, _, _, rfl⟩ := transfer_inv hi hn h
  exact ⟨fun _ => rfl, ⟨rfl, rfl, rfl, rfl, rfl, rfl, rfl, rfl⟩, rfl, rfl, rfl, rfl, rfl, rfl, rfl, ⟨rfl, rfl⟩, rfl⟩

/-- Settles O22: INIT and the launch of a transfer each leave their own part of the state. -/
theorem commandFrame : Obligations.CommandFrame := by
  intro i s t hi h
  by_cases hinit : ∃ b, i = .init b
  · obtain ⟨b, rfl⟩ := hinit
    obtain ⟨hbuf, hrest, hregs, hidx, hretry, hframe⟩ := init_frame h
    exact ⟨hbuf, hrest, hregs.1, hidx, hretry, fun hn => absurd rfl (hn b), fun _ => ⟨hregs, hframe⟩⟩
  · obtain ⟨hbuf, hrest, hcmd, hidx, hretry, hline⟩ := transfer_frame hi (fun b e => hinit ⟨b, e⟩) h
    exact ⟨hbuf, hrest, hcmd, hidx, hretry, fun _ => hline, fun he => absurd he hinit⟩

end Sys2Proof.Machine
end

section
/-! PROOF. The write phase on a prompt, acknowledging bus (42_write R120 to R124): the order of the stream, one turn of
the prompt agent, and the run from ERRCHK through the loop to the end of the command. -/

namespace Sys2Proof.Machine

/-! ### The stream of a write phase -/

theorem frameLen_of_write {s : State} (h : s.op = 2#4) : s.frameLen = 0 := by
  simp [State.frameLen, State.isFramed, opReadRegs, h]

theorem frameLen_of_framed {s : State} (h : s.op = 4#4 ∨ s.op = 5#4) : s.frameLen = s.asize.toNat := by
  obtain h | h := h <;> simp [State.frameLen, State.isFramed, h]

theorem streamByte_of_frame {s : State} (h : s.idx.toNat < s.frameLen) :
    streamByte s = .ok (if s.idx = 0 then s.fr0 else s.fr1) := if_pos h

theorem streamByte_of_payload {s : State} (h : s.frameLen ≤ s.idx.toNat)
    (hb : s.idx.toNat - s.frameLen < s.params.bufSize) :
    streamByte s = .ok (s.bufByte (s.idx.toNat - s.frameLen)) :=
  (if_neg (Nat.not_lt.mpr h)).trans (if_pos hb)

theorem streamLen_of_write {s : State} (h : s.op = 2#4) : s.streamLen = s.len := by
  simp [State.streamLen, opReadRegs, frameLen_of_write h, h]

/-- Settles O33: the frame's bytes come first, and a stream without frame is BUF from index 0. -/
theorem streamByteOrder : Obligations.StreamByteOrder := by
  intro s
  refine ⟨fun hop => ⟨streamLen_of_write hop, fun hb => ?_⟩, fun hop ha => ⟨fun h₀ => ?_, fun h₂ h₁ => ?_,
    fun hi hb => ?_, ?_⟩⟩
  · have hf := frameLen_of_write hop
    simpa [hf] using streamByte_of_payload (s := s) (by simp [hf]) (by simpa [hf] using hb)
  · have hpos : 0 < s.asize.toNat := by obtain ha | ha := ha <;> simp [ha]
    have hidx : s.idx = 0 := BitVec.eq_of_toNat_eq h₀
    rw [streamByte_of_frame (by rwa [h₀, frameLen_of_framed hop]), if_pos hidx]
  · have hidx : s.idx ≠ 0 := fun h => by simp [h] at h₁
    rw [streamByte_of_frame (by simp [h₁, frameLen_of_framed hop, h₂]), if_neg hidx]
  · rw [← frameLen_of_framed hop] at hi hb ⊢
    exact streamByte_of_payload hi hb
  · rw [← frameLen_of_framed hop]
    rfl

/-- Byte number `j` of the stream (44_register_access R165; 42_write R122). -/
def State.streamAt (s : State) (j : Nat) : Byte :=
  if j < s.frameLen then (if j = 0 then s.fr0 else s.fr1) else s.bufByte (j - s.frameLen)

theorem streamAt_of_write {s : State} (h : s.op = 2#4) (j : Nat) : s.streamAt j = s.bufByte j := by
  simp [State.streamAt, frameLen_of_write h]

/-- A payload that fits BUF: every byte of the stream is there to send. -/
theorem streamByte_eq_streamAt {s : State} (hl : s.len ≤ s.params.bufSize) (h : s.idx.toNat < s.streamLen) :
    streamByte s = .ok (s.streamAt s.idx.toNat) := by
  unfold State.streamAt
  split
  · next hf =>
    have hidx : s.idx = 0 ↔ s.idx.toNat = 0 := BitVec.toNat_eq
    rw [streamByte_of_frame hf, if_congr hidx rfl rfl]
  · next hf =>
    refine streamByte_of_payload (Nat.le_of_not_lt hf) ?_
    unfold State.streamLen at h
    split at h <;> omega

/-- The stream is short enough for IDX, 17 bits (10_state R15). -/
theorem streamLen_lt (s : State) : s.streamLen < 2 ^ 17 := by
  have hlen : s.len < 2 ^ 16 := (s.arg.extractLsb' 0 16).isLt
  have hasize : s.asize.toNat < 2 ^ 2 := s.asize.isLt
  unfold State.streamLen State.frameLen
  split <;> split <;> omega

/-! ### One turn of the prompt agent -/

/-- The state after the prompt agent's turn. -/
abbrev promptTurn (src : Nat → Byte) (s : State) : State := envTurn (s.setAgent [promptMoves src s])

theorem mem_promptMoves {src : Nat → Byte} {s : State} {m : EnvMove} (h : m ∈ promptMoves src s) :
    m = .bus (.txDone .ack) ∨ m = .bus (.addrRead .ack) ∨ ∃ v, m = .bus (.rxByte v) := by
  unfold promptMoves at h
  split at h <;> simp only [List.mem_cons, List.not_mem_nil, or_false] at h
  · exact .inl h
  · exact .inl h
  · exact .inr (h.imp_right fun h => ⟨_, h⟩)
  · exact .inr (.inr ⟨_, h⟩)

/-- The prompt agent makes no bus error and leaves the bus state alone. -/
theorem promptTurn_keeps_bus (src : Nat → Byte) (s : State) :
    (promptTurn src s).lu.busErr = s.lu.busErr ∧ (promptTurn src s).lu.busState = s.lu.busState := by
  refine envTurn_lu_induct (Q := fun u => u.busErr = s.lu.busErr ∧ u.busState = s.lu.busState)
    (fun b hb u hu => ?_) ⟨rfl, rfl⟩
  unfold BusMove.apply
  split
  · obtain h | h | ⟨v, h⟩ := mem_promptMoves hb <;> cases h <;> exact hu
  · exact hu

/-- A byte in flight completes in the turn, with ACK. -/
theorem promptTurn_completes {src : Nat → Byte} {s : State} (he : s.lu.enable = true)
    (hp : s.lu.pend = .addrw ∨ s.lu.pend = .txb) :
    (promptTurn src s).lu.txDone = true ∧ (promptTurn src s).lu.rxNack = false := by
  have hmoves : promptMoves src s = [.bus (.txDone .ack)] := by
    obtain hp | hp := hp <;> simp [promptMoves, hp]
  have hen : (BusMove.txDone .ack).enabled s.lu = true := by
    obtain hp | hp := hp <;> simp [BusMove.enabled, he, hp]
  have hturn : (promptTurn src s).lu = (BusMove.txDone .ack).apply s.lu := by
    simp [envTurn, State.envAlive, State.slot, hmoves, he, EnvMove.apply]
  rw [hturn, BusMove.apply, if_pos hen]
  exact ⟨rfl, rfl⟩

/-! ### Runs under the prompt agent -/

/-- After `k` steps under the prompt agent, a run from `s` is a run from `t`. -/
def PromptReaches (src : Nat → Byte) (k : Nat) (s t : State) : Prop :=
  ∀ n, promptRun src (n + k) s = promptRun src n t

theorem PromptReaches.trans {src : Nat → Byte} {j k : Nat} {s t u : State} (h : PromptReaches src j s t)
    (h' : PromptReaches src k t u) : PromptReaches src (j + k) s u := fun n => by
  rw [Nat.add_comm j k, ← Nat.add_assoc, h, h']

theorem PromptReaches.run_eq {src : Nat → Byte} {k : Nat} {s t : State} (h : PromptReaches src k s t) :
    promptRun src k s = .next t := by
  simpa [promptRun] using h 0

/-- With nothing on the port, a step of a running command is the sequencer's after the agent's turn. -/
theorem PromptReaches.of_seqStep {src : Nat → Byte} {s t : State} (hl : s.luPort = none) (hp : s.phase ≠ .idle)
    (h : seqStep (promptTurn src s) = .next t) : PromptReaches src 1 s t := fun n => by
  simp [promptRun, step, fetchStep, hl, hp, h]

/-! ### The operations of a write phase -/

theorem exec_addr {s : State} (hc : s.extClken = true) (he : s.lu.enable = true) (b : Byte) : exec (.addr b) s =
    .next ((s.setLu { s.lu with
      addr := b, txDone := false, pend := if b.getLsbD 0 then .addrr else .addrw }).emit (.addr b)) :=
  whenEnabled_of_enabled hc he _

theorem exec_tx {s : State} (hc : s.extClken = true) (he : s.lu.enable = true) (b : Byte) :
    exec (.tx b) s = .next ((s.setLu { s.lu with data := b, txDone := false, pend := .txb }).emit (.tx b)) :=
  whenEnabled_of_enabled hc he _

theorem seqStep_start_issues {s : State} (hp : s.phase = .start) (hc : s.extClken = true) (he : s.lu.enable = true) :
    seqStep s = .next ((((s.setLu s.lu.start).setHeld false).emit
      (.start (decide (s.lu.busState = .owner)))).setPhase .addr) := by
  simp [seqStep, hp, issue, exec_start hc he]

theorem seqStep_addr_issues {s : State} (hp : s.phase = .addr) (hc : s.extClken = true) (he : s.lu.enable = true) :
    seqStep s = .next (((s.setLu { s.lu with
      addr := addressByte s.dev s.isRead, txDone := false,
      pend := if (addressByte s.dev s.isRead).getLsbD 0 then .addrr else .addrw }).emit
      (.addr (addressByte s.dev s.isRead))).setPhase .addrwait) := by
  simp [seqStep, hp, issue, exec_addr hc he]

theorem seqStep_txbyte_issues {s : State} {b : Byte} (hp : s.phase = .txbyte) (hc : s.extClken = true)
    (he : s.lu.enable = true) (hb : streamByte s = .ok b) :
    seqStep s = .next (startWait
      ((s.setLu { s.lu with data := b, txDone := false, pend := .txb }).emit (.tx b)) .txwait) := by
  simp [seqStep, hp, hb, issue, exec_tx hc he]

@[simp] theorem startWait_idx (s : State) (p : Phase) : (startWait s p).idx = s.idx := rfl

/-- A phase that is its command's last goes to DONE. -/
theorem afterPhase_of_last {s : State} (h : s.op ≠ opReadRegs) : afterPhase s = s.setPhase .done := by
  obtain ⟨hop, -⟩ | ⟨-, e⟩ := afterPhase_cases s
  · exact absurd hop h
  · exact e

/-! ### A write phase that nothing disturbs -/

/-- The state with all that a write phase and its end work on blanked. -/
def State.fixedPart (s : State) : State := { s with
  count := 0, phase := .idle, idx := 0, retry := 0, act := false, ret := 0, held := false, lu := LineUnit.reset,
  trace := [], snap := LineUnit.reset.snapshot, divCnt := 0, sclHalf := false, agent := [], tick := 0 }

theorem envTurn_fixedPart (s : State) : (envTurn s).fixedPart = s.fixedPart := by
  obtain ⟨_, _, _, h⟩ := envTurn_eq s
  rw [h]
  rfl

/-- `t` is reached in the write phase that runs in `s`: it has added the events `es`, its line unit is ready with the
bus in state `b` and no bus error, and nothing but the phase's own fields has been written. -/
structure WriteRun (s : State) (b : BusState) (es : List Event) (t : State) : Prop where
  fixed : t.fixedPart = s.fixedPart
  trace : t.trace = s.trace ++ es
  port : t.luPort = none
  clocked : t.extClken = true
  enabled : t.lu.enable = true
  noErr : t.lu.busErr = false
  bus : t.lu.busState = b

section
variable {src : Nat → Byte} {s t : State} {b : BusState} {es : List Event}

theorem WriteRun.turn (h : WriteRun s b es t) : WriteRun s b es (promptTurn src t) := by
  obtain ⟨herr, hbus⟩ := promptTurn_keeps_bus src t
  exact ⟨(envTurn_fixedPart _).trans h.fixed, by simp [h.trace], by simp [h.port], by simp [h.clocked],
    (envTurn_enable _).trans h.enabled, herr.trans h.noErr, hbus.trans h.bus⟩

/-- The sequencer's own fields may hold anything. -/
theorem WriteRun.work (h : WriteRun s b es t) (p : Phase) (i : BitVec 17) (r : Nat) (a : Bool) (k : BitVec 17)
    (sn : Snapshot) :
    WriteRun s b es { t with phase := p, idx := i, retry := r, act := a, ret := k, snap := sn } :=
  ⟨h.fixed, h.trace, h.port, h.clocked, h.enabled, h.noErr, h.bus⟩

/-- An operation that leaves ENABLE and BUSERR alone adds its event. -/
theorem WriteRun.operate (h : WriteRun s b es t) (u : LineUnit) (he : u.enable = t.lu.enable)
    (hn : u.busErr = t.lu.busErr) {b' : BusState} (hb : u.busState = b') (e : Event) :
    WriteRun s b' (es ++ [e]) ((t.setLu u).emit e) :=
  ⟨h.fixed, by simp [h.trace], h.port, h.clocked, he.trans h.enabled, hn.trans h.noErr, hb⟩

theorem WriteRun.setHeld (h : WriteRun s b es t) (held : Bool) : WriteRun s b es (t.setHeld held) :=
  ⟨h.fixed, h.trace, h.port, h.clocked, h.enabled, h.noErr, h.bus⟩

/-- What does not look at the phase's own fields reads the same. -/
theorem WriteRun.reads (h : WriteRun s b es t) {α : Type} (f : State → α) (hf : ∀ s, f s.fixedPart = f s) :
    f t = f s :=
  (hf t).symm.trans ((congrArg f h.fixed).trans (hf s))

theorem WriteRun.sameBuf (h : WriteRun s b es t) : SameBuf s t :=
  congrFun (h.reads State.bufByte fun _ => rfl)

/-- An error check that finds no error (45_recovery R180, R181). -/
theorem WriteRun.errchk (h : WriteRun s b es t) (hp : t.phase = .errchk) (ha : t.act = false) :
    ∃ u, PromptReaches src 1 t u ∧ WriteRun s b es u ∧ u.phase = .idlechk ∧ u.act = false := by
  have hturn := h.turn (src := src)
  have hseq := seqStep_errchk_tests (s := promptTurn src t) (by simp [hp]) (by simp [ha]) hturn.clocked
  rw [testErrchk, if_neg (by simp [LineUnit.snapshot, hturn.noErr])] at hseq
  exact ⟨_, .of_seqStep h.port (by simp [hp]) hseq, hturn.work .., rfl, by simp [ha]⟩

/-- A bus check that finds the bus idle (45_recovery R180, R182). -/
theorem WriteRun.idlechk (h : WriteRun s .idle es t) (hp : t.phase = .idlechk) (ha : t.act = false) :
    ∃ u, PromptReaches src 1 t u ∧ WriteRun s .idle es u ∧ u.phase = .start := by
  have hturn := h.turn (src := src)
  have hseq := seqStep_idlechk_tests (s := promptTurn src t) (by simp [hp]) (by simp [ha]) hturn.clocked
  rw [testIdlechk, if_neg (by simp [LineUnit.snapshot, hturn.bus])] at hseq
  exact ⟨_, .of_seqStep h.port (by simp [hp]) hseq, hturn.work .., rfl⟩

/-- START on an idle bus owns it, and is no repeated START (40_line_unit_ops R89). -/
theorem WriteRun.start (h : WriteRun s .idle es t) (hp : t.phase = .start) :
    ∃ u, PromptReaches src 1 t u ∧ WriteRun s .owner (es ++ [.start false]) u ∧ u.phase = .addr := by
  have hturn := h.turn (src := src)
  obtain ⟨howner, -⟩ := (promptTurn src t).lu.start_busState
  have hrun := (hturn.setHeld false).operate (promptTurn src t).lu.start rfl rfl (howner (.inl hturn.bus))
    (.start false)
  have hseq := seqStep_start_issues (s := promptTurn src t) (by simp [hp]) hturn.clocked hturn.enabled
  rw [hturn.bus] at hseq
  exact ⟨_, .of_seqStep h.port (by simp [hp]) hseq, hrun.work .., rfl⟩

/-- The address byte of a write goes into flight (40_line_unit_ops R90). -/
theorem WriteRun.addr (h : WriteRun s b es t) (hp : t.phase = .addr) (hr : s.isRead = false) :
    ∃ u, PromptReaches src 1 t u ∧ WriteRun s b (es ++ [.addr (addressByte s.dev false)]) u ∧
      u.phase = .addrwait ∧ u.lu.pend = .addrw := by
  have hturn := h.turn (src := src)
  have hread : (promptTurn src t).isRead = false := (hturn.reads State.isRead fun _ => rfl).trans hr
  have hdev : (promptTurn src t).dev = s.dev := hturn.reads State.dev fun _ => rfl
  obtain ⟨-, -, hwrite⟩ := addressByteFields s.dev false
  have hseq := seqStep_addr_issues (s := promptTurn src t) (by simp [hp]) hturn.clocked hturn.enabled
  rw [hread, hdev, if_neg (Bool.eq_false_iff.mp hwrite)] at hseq
  have hrun := hturn.operate
    { (promptTurn src t).lu with addr := addressByte s.dev false, txDone := false, pend := .addrw } rfl rfl hturn.bus
    (.addr (addressByte s.dev false))
  exact ⟨_, .of_seqStep h.port (by simp [hp]) hseq, hrun.work .., rfl, rfl⟩

/-- The address is acknowledged, and the write loop begins at IDX = 0 (42_write R121). -/
theorem WriteRun.addrwait (h : WriteRun s b es t) (hp : t.phase = .addrwait) (hpend : t.lu.pend = .addrw)
    (hr : s.isRead = false) :
    ∃ u, PromptReaches src 1 t (writeLoop u) ∧ WriteRun s b es u ∧ u.idx = 0 := by
  have hturn := h.turn (src := src)
  have hread : (promptTurn src t).isRead = false := (hturn.reads State.isRead fun _ => rfl).trans hr
  obtain ⟨hdone, hack⟩ := promptTurn_completes (src := src) h.enabled (.inl hpend)
  have hseq := (seqStep_addrwait_tests (by simp [hp]) hturn.clocked).trans
    (congrArg _ (testAddrwait_of_ack_write (.inl hdone) hack hread))
  exact ⟨_, .of_seqStep h.port (by simp [hp]) hseq, hturn.work .., rfl⟩

/-- A stream byte goes into flight (42_write R121, 40_line_unit_ops R91). -/
theorem WriteRun.txbyte (h : WriteRun s b es t) (hp : t.phase = .txbyte) {v : Byte} (hv : streamByte t = .ok v) :
    ∃ u, PromptReaches src 1 t u ∧ WriteRun s b (es ++ [.tx v]) u ∧ u.phase = .txwait ∧ u.lu.pend = .txb ∧
      u.idx = t.idx := by
  have hturn := h.turn (src := src)
  have hseq := seqStep_txbyte_issues (s := promptTurn src t) (by simp [hp]) hturn.clocked hturn.enabled
    ((envTurn_streamByte _).trans hv)
  have hrun := hturn.operate { (promptTurn src t).lu with data := v, txDone := false, pend := .txb } rfl rfl
    hturn.bus (.tx v)
  exact ⟨_, .of_seqStep h.port (by simp [hp]) hseq, hrun.work .., rfl, by simp, by simp⟩

/-- The byte is acknowledged, and IDX counts it (42_write R121). -/
theorem WriteRun.txwait (h : WriteRun s b es t) (hp : t.phase = .txwait) (hpend : t.lu.pend = .txb) :
    ∃ u, PromptReaches src 1 t (writeLoop u) ∧ WriteRun s b es u ∧ u.idx = t.idx + 1 := by
  have hturn := h.turn (src := src)
  obtain ⟨hdone, hack⟩ := promptTurn_completes (src := src) h.enabled (.inr hpend)
  have hseq := (seqStep_txwait_tests (by simp [hp]) hturn.clocked).trans
    (congrArg _ (testTxwait_of_ack hturn.noErr hdone hack))
  exact ⟨_, .of_seqStep h.port (by simp [hp]) hseq, hturn.work .., by simp⟩

/-- STOP releases the bus, and the command is at its end (40_line_unit_ops R93). -/
theorem WriteRun.stop (h : WriteRun s .owner es t) (hp : t.phase = .stop) (hop : s.op ≠ opReadRegs) :
    ∃ u, PromptReaches src 1 t u ∧ WriteRun s .idle (es ++ [.stop]) u ∧ u.phase = .done ∧ u.ret = t.ret ∧
      u.held = false := by
  have hturn := h.turn (src := src)
  have hop' : (promptTurn src t).op ≠ opReadRegs := (hturn.reads State.op fun _ => rfl).trans_ne hop
  obtain ⟨hrelease, -⟩ := (promptTurn src t).lu.stop_busState
  have hrun := (hturn.setHeld false).operate (promptTurn src t).lu.stop rfl rfl (hrelease hturn.bus) .stop
  have hseq := (seqStep_stop_ends (by simp [hp]) hturn.clocked hturn.enabled).trans
    (congrArg _ (afterPhase_of_last hop'))
  exact ⟨_, .of_seqStep h.port (by simp [hp]) hseq, hrun.work .., rfl, by simp, rfl⟩

/-- The command ends: its count goes to RESULT and PHASE to IDLE (60_exceptions R197). -/
theorem WriteRun.done (h : WriteRun s b es t) (hp : t.phase = .done) (hop : s.op ≠ opReadRegs) :
    ∃ u, PromptReaches src 1 t u ∧ WriteRun s b es u ∧ u.phase = .idle ∧ u.count = t.ret ∧ u.held = t.held := by
  have hturn := h.turn (src := src)
  have hop' : (promptTurn src t).op ≠ opReadRegs := (hturn.reads State.op fun _ => rfl).trans_ne hop
  have hseq : seqStep (promptTurn src t) = .next (finish (promptTurn src t)) := by simp [seqStep, hp]
  have hfixed : (finish (promptTurn src t)).fixedPart = (promptTurn src t).fixedPart := by
    simp only [State.fixedPart, finish, if_neg hop']
  exact ⟨_, .of_seqStep h.port (by simp [hp]) hseq,
    ⟨hfixed.trans hturn.fixed, hturn.trace, hturn.port, hturn.clocked, hturn.enabled, hturn.noErr, hturn.bus⟩,
    rfl, by simp, by simp⟩

/-- The loop sends the next byte of the stream and comes back to its head (42_write R121). -/
theorem WriteRun.loop (h : WriteRun s b es t) (hfit : s.len ≤ s.params.bufSize) (hi : t.idx.toNat < s.streamLen) :
    ∃ u, PromptReaches src 2 (writeLoop t) (writeLoop u) ∧
      WriteRun s b (es ++ [.tx (s.streamAt t.idx.toNat)]) u ∧ u.idx.toNat = t.idx.toNat + 1 := by
  have hlen : t.streamLen = s.streamLen := h.reads State.streamLen fun _ => rfl
  have hfit' : t.len ≤ t.params.bufSize := by
    rwa [h.reads State.len fun _ => rfl, h.reads State.params fun _ => rfl]
  have hbyte : streamByte t = .ok (s.streamAt t.idx.toNat) := by
    rw [streamByte_eq_streamAt hfit' (hlen ▸ hi), h.reads State.streamAt fun _ => rfl]
  obtain ⟨u, hu, hrun, hp, hpend, hidx⟩ :=
    (h.work .txbyte t.idx t.retry t.act t.ret t.snap).txbyte (src := src) rfl hbyte
  obtain ⟨v, hv, hrun', hidx'⟩ := hrun.txwait (src := src) hp hpend
  refine ⟨v, ?_, hrun', ?_⟩
  · rw [writeLoop_of_more (hlen ▸ hi)]
    exact hu.trans hv
  · have hbound := streamLen_lt s
    rw [hidx', hidx]
    bv_omega

/-- The events of a write phase up to its byte number `k`: START, ADDR and `k` bytes of the stream. -/
def eventsAfter (s : State) (k : Nat) : List Event :=
  [.start false, .addr (addressByte s.dev false)] ++ (List.range k).map fun j => .tx (s.streamAt j)

/-- WRITE sends BUF from index 0 (42_write R122). -/
theorem eventsAfter_of_write {s : State} (hop : s.op = 2#4) (k : Nat) : eventsAfter s k =
    [.start false, .addr (addressByte s.dev false)] ++ ((List.range k).map s.bufByte).map .tx := by
  simp [eventsAfter, streamAt_of_write hop]

/-- A write phase just launched on an idle bus without error, with a payload that fits BUF. -/
structure WriteLaunched (s : State) : Prop where
  run : WriteRun s .idle [] s
  phase : s.phase = .errchk
  act : s.act = false
  write : s.isRead = false
  fits : s.len ≤ s.params.bufSize

/-- A launched write phase comes to the head of its loop after RECOVER's two checks, START, ADDR and one poll, and
again after each byte of the stream. -/
theorem WriteLaunched.stream (h : WriteLaunched s) {k : Nat} (hk : k ≤ s.streamLen) :
    ∃ u, PromptReaches src (5 + 2 * k) s (writeLoop u) ∧ WriteRun s .owner (eventsAfter s k) u ∧
      u.idx.toNat = k := by
  induction k with
  | zero =>
    obtain ⟨t₁, r₁, h₁, hp₁, ha₁⟩ := h.run.errchk (src := src) h.phase h.act
    obtain ⟨t₂, r₂, h₂, hp₂⟩ := h₁.idlechk (src := src) hp₁ ha₁
    obtain ⟨t₃, r₃, h₃, hp₃⟩ := h₂.start (src := src) hp₂
    obtain ⟨t₄, r₄, h₄, hp₄, hpend⟩ := h₃.addr (src := src) hp₃ h.write
    obtain ⟨t₅, r₅, h₅, hidx⟩ := h₄.addrwait (src := src) hp₄ hpend h.write
    exact ⟨t₅, (((r₁.trans r₂).trans r₃).trans r₄).trans r₅, h₅, by simp [hidx]⟩
  | succ k ih =>
    obtain ⟨t, r, hrun, hidx⟩ := ih (Nat.le_of_succ_le hk)
    obtain ⟨u, r', hrun', hidx'⟩ := hrun.loop (src := src) h.fits (by omega)
    refine ⟨u, r.trans r', ?_, by rw [hidx', hidx]⟩
    rw [hidx] at hrun'
    simpa [eventsAfter, List.range_succ] using hrun'

/-- WRITE and WRITE_REGS without HOLD: after the stream STOP, and DONE with its length as the count (42_write R121,
R124). -/
theorem WriteLaunched.completes (h : WriteLaunched s) (hop : s.op ≠ opReadRegs) (hh : s.holds = false) :
    ∃ t, promptRun src (7 + 2 * s.streamLen) s = .next t ∧
      WriteRun s .idle (eventsAfter s s.streamLen ++ [.stop]) t ∧ t.phase = .idle ∧ t.count.toNat = s.streamLen ∧
      t.held = false := by
  obtain ⟨u, r, hrun, hidx⟩ := h.stream (src := src) le_rfl
  have hend : u.streamLen ≤ u.idx.toNat := by rw [hrun.reads State.streamLen fun _ => rfl, hidx]
  rw [writeLoop_of_end hend ((hrun.reads State.holds fun _ => rfl).trans hh)] at r
  obtain ⟨v, r₁, h₁, hp₁, hret, hheld⟩ := (hrun.work .stop u.idx u.retry u.act u.idx u.snap).stop (src := src) rfl hop
  obtain ⟨t, r₂, h₂, hp₂, hcount, hheld'⟩ := h₁.done (src := src) hp₁ hop
  refine ⟨t, ?_, h₂, hp₂, by simpa [hcount, hret], hheld'.trans hheld⟩
  rw [show 7 + 2 * s.streamLen = 5 + 2 * s.streamLen + 1 + 1 by omega]
  exact ((r.trans r₁).trans r₂).run_eq

/-- WRITE and WRITE_REGS with HOLD: after the stream DONE at once, the bus owned and HELD set (42_write R123). -/
theorem WriteLaunched.completes_held (h : WriteLaunched s) (hop : s.op ≠ opReadRegs) (hh : s.holds = true) :
    ∃ t, promptRun src (6 + 2 * s.streamLen) s = .next t ∧
      WriteRun s .owner (eventsAfter s s.streamLen) t ∧ t.phase = .idle ∧ t.count.toNat = s.streamLen ∧
      t.held = true := by
  obtain ⟨u, r, hrun, hidx⟩ := h.stream (src := src) le_rfl
  have hend : u.streamLen ≤ u.idx.toNat := by rw [hrun.reads State.streamLen fun _ => rfl, hidx]
  have hop' : u.op ≠ opReadRegs := (hrun.reads State.op fun _ => rfl).trans_ne hop
  rw [writeLoop_of_end_held hend ((hrun.reads State.holds fun _ => rfl).trans hh),
    afterPhase_of_last (s := (u.setHeld true).setRet u.idx) hop'] at r
  obtain ⟨t, r₁, h₁, hp₁, hcount, hheld⟩ :=
    ((hrun.setHeld true).work .done u.idx u.retry u.act u.idx u.snap).done (src := src) rfl hop
  refine ⟨t, ?_, h₁, hp₁, by simpa [hcount], hheld⟩
  rw [show 6 + 2 * s.streamLen = 5 + 2 * s.streamLen + 1 by omega]
  exact (r.trans r₁).run_eq

end

/-! ### WRITE -/

theorem exec_write {s : State} {dev : BitVec 7} {len : BitVec 16} {hold : Bool} (hp : s.phase = .idle)
    (hi : s.inited = true) (hl : len.toNat ≤ s.params.bufSize) :
    exec (.write dev len hold) s = .next (launch s 2#4 hold 0#2 dev 0#16 len .errchk) :=
  whenReady_of_ready hp hi hl _

theorem streamLen_launch_write (s : State) (hold : Bool) (dev : BitVec 7) (len : BitVec 16) :
    (launch s 2#4 hold 0#2 dev 0#16 len .errchk).streamLen = len.toNat :=
  (streamLen_of_write rfl).trans (len_launch ..)

/-- A launch of WRITE on an idle bus without error, with a payload that fits BUF. -/
theorem writeLaunched_of_write {s : State} {len : BitVec 16} (dev : BitVec 7) (hold : Bool) (hport : s.luPort = none)
    (hc : s.extClken = true) (he : s.lu.enable = true) (hn : s.lu.busErr = false) (hb : s.lu.busState = .idle)
    (hl : len.toNat ≤ s.params.bufSize) : WriteLaunched (launch s 2#4 hold 0#2 dev 0#16 len .errchk) :=
  ⟨⟨rfl, by simp, hport, hc, he, hn, hb⟩, rfl, rfl, rfl, (len_launch ..).trans_le hl⟩

/-- Settles O48: the launch, then the run of a write phase that ends by STOP. -/
theorem writeCompletesPromptly : Obligations.WriteCompletesPromptly := by
  intro src s dev len hport hp hi hc he hn hb _ hl
  obtain ⟨t, hrun, ht, hphase, hcount, hheld⟩ :=
    (writeLaunched_of_write dev false hport hc he hn hb hl).completes (src := src) (show 2#4 ≠ 5#4 by decide) rfl
  rw [streamLen_launch_write] at hrun ht hcount
  refine ⟨t, ?_, hphase, ?_, hcount, ht.reads State.fail fun _ => rfl, hheld, ht.bus, ht.sameBuf⟩
  · rwa [exec_write hp hi hl]
  · rw [ht.trace, eventsAfter_of_write rfl]
    rfl

/-- Settles O49: the launch, then the run of a write phase that ends held. -/
theorem heldWriteCompletesPromptly : Obligations.HeldWriteCompletesPromptly := by
  intro src s dev len hport hp hi hc he hn hb _ hl
  obtain ⟨t, hrun, ht, hphase, hcount, hheld⟩ :=
    (writeLaunched_of_write dev true hport hc he hn hb hl).completes_held (src := src) (show 2#4 ≠ 5#4 by decide) rfl
  rw [streamLen_launch_write] at hrun ht hcount
  refine ⟨t, ?_, hphase, ?_, hcount, ht.reads State.fail fun _ => rfl, hheld, ht.bus, ht.sameBuf⟩
  · rwa [exec_write hp hi hl]
  · rw [ht.trace, eventsAfter_of_write rfl]
    rfl

end Sys2Proof.Machine
end

section
/-! PROOF. The read phase on a prompt, acknowledging bus (43_read R140 to R144): the received byte that is stored, what
the prompt agent delivers in a turn, and the run from START through the loop to STOP and the end of READ. -/

namespace Sys2Proof.Machine

/-! ### A received byte -/

/-- The byte that waits is acknowledged, stored at BUF[IDX] and counted (43_read R141). -/
def State.received (s : State) : State :=
  ((((s.setLu (s.lu.rx (rxAck s))).setRxVal s.lu.data).emit (.rx s.lu.data (rxAck s))).setBuf
    (Memory.put s.buf s.idx.toNat s.lu.data)).setIdx (s.idx + 1)

@[simp] theorem received_lu (s : State) : s.received.lu = s.lu.rx (rxAck s) := by simp [State.received]
@[simp] theorem received_idx (s : State) : s.received.idx = s.idx + 1 := by simp [State.received]
@[simp] theorem received_trace (s : State) : s.received.trace = s.trace ++ [.rx s.lu.data (rxAck s)] := by
  simp [State.received]
@[simp] theorem received_fail (s : State) : s.received.fail = s.fail := by simp [State.received]
@[simp] theorem received_held (s : State) : s.received.held = s.held := by simp [State.received]
@[simp] theorem received_params (s : State) : s.received.params = s.params := by simp [State.received]

theorem received_sameOperands (s : State) : SameOperands s s.received := by simp [State.received, SameOperands]

@[simp] theorem received_len (s : State) : s.received.len = s.len := by
  obtain ⟨-, -, -, -, -, harg⟩ := received_sameOperands s
  rw [State.len, harg, State.len]

@[simp] theorem received_bufByte (s : State) (j : Nat) :
    s.received.bufByte j = if j = s.idx.toNat then s.lu.data else s.bufByte j :=
  bufByte_setBuf_put s s.idx.toNat s.lu.data j

@[simp] theorem readLoop_bufByte (s : State) (j : Nat) : (readLoop s).bufByte j = s.bufByte j := by
  simp [State.bufByte]

/-- The head of the read loop: the next wait with its counter loaded, or STOP with the count (43_read R141). -/
theorem readLoop_goes (s : State) :
    (readLoop s).phase = (if s.idx.toNat < s.len then .rxwait else .stop) ∧
      (s.idx.toNat < s.len → (readLoop s).retry = s.params.retryBudget) ∧
      (s.len ≤ s.idx.toNat → (readLoop s).ret = s.idx) := by
  obtain hmore | hend := Nat.lt_or_ge s.idx.toNat s.len
  · rw [readLoop_of_more hmore, if_pos hmore]
    exact ⟨rfl, fun _ => rfl, fun hend => absurd hend (Nat.not_le.mpr hmore)⟩
  · rw [readLoop_of_end hend, if_neg (Nat.not_lt.mpr hend)]
    exact ⟨rfl, fun hmore => absurd hmore (Nat.not_lt.mpr hend), fun _ => rfl⟩

theorem LineUnit.rx_leaves (u : LineUnit) (a : Ack) :
    (u.rx a).rxRdy = false ∧ (u.rx a).enable = u.enable ∧ (u.rx a).busErr = u.busErr := by
  cases a <;> exact ⟨rfl, rfl, rfl⟩

theorem seqStep_rxbyte_stores {s : State} (hp : s.phase = .rxbyte) (hc : s.extClken = true) (he : s.lu.enable = true)
    (hr : s.lu.rxRdy = true) (hi : s.idx.toNat < s.params.bufSize) : seqStep s = .next (readLoop s.received) := by
  simp only [seqStep, hp, issue, exec_rx hc he hr, andThen_next, storeByte]
  rw [writeBuf_eq_next.mpr ⟨by simpa using hi, rfl⟩]
  rfl

/-- Settles O32: RX and the store, then the head of the read loop at the next IDX. -/
theorem receivedByteStored : Obligations.ReceivedByteStored := by
  intro s hp hc he hr hi
  obtain ⟨hready, -, -⟩ := LineUnit.rx_leaves s.lu (rxAck s)
  have hops : SameOperands s (readLoop s.received) := by simpa [SameOperands] using received_sameOperands s
  obtain ⟨hphase, hretry, hret⟩ := readLoop_goes s.received
  rw [received_idx, received_len] at hphase hretry hret
  rw [received_params] at hretry
  exact ⟨readLoop s.received, seqStep_rxbyte_stores hp hc he hr hi, by simp, by simp, by simp [rxAck], by simp [hready],
    by simp, by simp, hops, hphase, hretry, hret⟩

/-! ### What the prompt agent delivers -/

/-- The byte `v` waits in the line unit, and nothing is in flight. -/
structure LineUnit.Offers (u : LineUnit) (v : Byte) : Prop where
  ready : u.rxRdy = true
  byte : u.data = v
  free : u.pend = .none

/-- Byte number IDX of the source is in flight or waits. -/
def ByteComing (src : Nat → Byte) (s : State) : Prop :=
  s.lu.pend = .rxb ∨ s.lu.Offers (src s.idx.toNat)

theorem promptTurn_lu {src : Nat → Byte} {s : State} (he : s.lu.enable = true) :
    (promptTurn src s).lu = (applyMoves (promptMoves src s) (s.setAgent [promptMoves src s])).lu := by
  simp [envTurn, State.envAlive, State.slot, he]

theorem promptTurn_lu_of_none {src : Nat → Byte} {s : State} (he : s.lu.enable = true) (hp : s.lu.pend = .none) :
    (promptTurn src s).lu = s.lu := by
  simp [promptTurn_lu he, promptMoves, hp, applyMoves]

/-- A byte in flight arrives in the turn. -/
theorem BusMove.apply_rxByte {u : LineUnit} (he : u.enable = true) (hp : u.pend = .rxb) (v : Byte) :
    ((BusMove.rxByte v).apply u).Offers v ∧ ((BusMove.rxByte v).apply u).rxNack = u.rxNack := by
  rw [BusMove.apply, if_pos (by simp [BusMove.enabled, he, hp])]
  exact ⟨⟨rfl, rfl, rfl⟩, rfl⟩

theorem BusMove.apply_addrRead_ack {u : LineUnit} (he : u.enable = true) (hp : u.pend = .addrr) :
    (BusMove.addrRead .ack).apply u = { u with rxNack := false, pend := .rxb } :=
  if_pos (by simp [BusMove.enabled, he, hp])

/-- The acknowledge of a read address and the first byte come in one turn. -/
theorem promptTurn_answers_addrr {src : Nat → Byte} {s : State} (he : s.lu.enable = true)
    (hp : s.lu.pend = .addrr) :
    (promptTurn src s).lu.Offers (src 0) ∧ (promptTurn src s).lu.rxNack = false := by
  have hlu : (promptTurn src s).lu = (BusMove.rxByte (src 0)).apply { s.lu with rxNack := false, pend := .rxb } := by
    rw [promptTurn_lu he, ← BusMove.apply_addrRead_ack he hp]
    simp only [promptMoves, hp]
    rfl
  rw [hlu]
  exact BusMove.apply_rxByte (u := { s.lu with rxNack := false, pend := .rxb }) he rfl (src 0)

/-- A byte that comes is there after the turn. -/
theorem ByteComing.delivered {src : Nat → Byte} {s : State} (h : ByteComing src s) (he : s.lu.enable = true) :
    (promptTurn src s).lu.Offers (src s.idx.toNat) := by
  obtain hp | h := h
  · have hlu : (promptTurn src s).lu = (BusMove.rxByte (src s.idx.toNat)).apply s.lu := by
      rw [promptTurn_lu he]
      simp only [promptMoves, hp]
      rfl
    rw [hlu]
    exact (BusMove.apply_rxByte he hp _).1
  · rwa [promptTurn_lu_of_none he h.free]

/-! ### A read phase that nothing disturbs -/

section
variable {src : Nat → Byte} {s t : State} {b : BusState} {es : List Event}

/-- Writing BUF and the byte RX returned: the run is then one from the state with the same two written. -/
theorem WriteRun.store (h : WriteRun s b es t) (m : List Host.Cell) (v : Byte) :
    WriteRun ((s.setBuf m).setRxVal v) b es ((t.setBuf m).setRxVal v) :=
  ⟨congrArg (fun f => (f.setBuf m).setRxVal v) h.fixed, h.trace, h.port, h.clocked, h.enabled, h.noErr, h.bus⟩

/-- START on an idle or owned bus owns it, and is a repeated START exactly when the bus was owned (40_line_unit_ops
R89). -/
theorem WriteRun.start_owns (h : WriteRun s b es t) (hp : t.phase = .start) (hb : b = .idle ∨ b = .owner) :
    ∃ u, PromptReaches src 1 t u ∧ WriteRun s .owner (es ++ [.start (decide (b = .owner))]) u ∧ u.phase = .addr := by
  have hturn := h.turn (src := src)
  obtain ⟨howner, -⟩ := (promptTurn src t).lu.start_busState
  have hrun := (hturn.setHeld false).operate (promptTurn src t).lu.start rfl rfl (howner (hturn.bus.symm ▸ hb))
    (.start (decide (b = .owner)))
  have hseq := seqStep_start_issues (s := promptTurn src t) (by simp [hp]) hturn.clocked hturn.enabled
  rw [hturn.bus] at hseq
  exact ⟨_, .of_seqStep h.port (by simp [hp]) hseq, hrun.work .., rfl⟩

/-- The address byte of a read goes into flight (40_line_unit_ops R90). -/
theorem WriteRun.addr_read (h : WriteRun s b es t) (hp : t.phase = .addr) (hr : s.isRead = true) :
    ∃ u, PromptReaches src 1 t u ∧ WriteRun s b (es ++ [.addr (addressByte s.dev true)]) u ∧
      u.phase = .addrwait ∧ u.lu.pend = .addrr := by
  have hturn := h.turn (src := src)
  have hread : (promptTurn src t).isRead = true := (hturn.reads State.isRead fun _ => rfl).trans hr
  have hdev : (promptTurn src t).dev = s.dev := hturn.reads State.dev fun _ => rfl
  obtain ⟨-, -, hbit⟩ := addressByteFields s.dev true
  have hseq := seqStep_addr_issues (s := promptTurn src t) (by simp [hp]) hturn.clocked hturn.enabled
  rw [hread, hdev, if_pos hbit] at hseq
  have hrun := hturn.operate
    { (promptTurn src t).lu with addr := addressByte s.dev true, txDone := false, pend := .addrr } rfl rfl hturn.bus
    (.addr (addressByte s.dev true))
  exact ⟨_, .of_seqStep h.port (by simp [hp]) hseq, hrun.work .., rfl, rfl⟩

/-- The address is acknowledged, the first byte waits, and the read loop begins at IDX = 0 (43_read R141). -/
theorem WriteRun.addrwait_read (h : WriteRun s b es t) (hp : t.phase = .addrwait) (hpend : t.lu.pend = .addrr)
    (hr : s.isRead = true) :
    ∃ u, PromptReaches src 1 t (readLoop u) ∧ WriteRun s b es u ∧ u.idx = 0 ∧ ByteComing src u := by
  have hturn := h.turn (src := src)
  have hread : (promptTurn src t).isRead = true := (hturn.reads State.isRead fun _ => rfl).trans hr
  obtain ⟨hoffers, hack⟩ := promptTurn_answers_addrr (src := src) h.enabled hpend
  have hseq := (seqStep_addrwait_tests (by simp [hp]) hturn.clocked).trans
    (congrArg _ (testAddrwait_of_ack_read (.inr ⟨hread, hoffers.ready⟩) hack hread))
  exact ⟨_, .of_seqStep h.port (by simp [hp]) hseq, hturn.work .., rfl, .inr hoffers⟩

/-- The poll sees the byte that comes (40_line_unit_ops R106). -/
theorem WriteRun.rxwait (h : WriteRun s b es t) (hp : t.phase = .rxwait) (hcome : ByteComing src t) :
    ∃ u, PromptReaches src 1 t u ∧ WriteRun s b es u ∧ u.phase = .rxbyte ∧ u.idx = t.idx ∧
      u.lu.Offers (src t.idx.toNat) := by
  have hturn := h.turn (src := src)
  have hoffers := hcome.delivered h.enabled
  have hseq := (seqStep_rxwait_tests (by simp [hp]) hturn.clocked).trans
    (congrArg _ (testRxwait_of_ready hturn.noErr hoffers.ready))
  exact ⟨_, .of_seqStep h.port (by simp [hp]) hseq, hturn.work .., rfl, by simp, hoffers⟩

/-- Receiving a byte adds its event and writes BUF and the byte RX returned. -/
theorem WriteRun.received (h : WriteRun s b es t) :
    WriteRun ((s.setBuf t.received.buf).setRxVal t.received.rxVal) b (es ++ [.rx t.lu.data (rxAck t)]) t.received := by
  obtain ⟨-, hen, herr⟩ := LineUnit.rx_leaves t.lu (rxAck t)
  obtain ⟨hbus, -⟩ := LineUnit.rx_keeps t.lu (rxAck t)
  exact ((h.operate _ hen herr (hbus.trans h.bus) (.rx t.lu.data (rxAck t))).store _ _).work ..

/-- The byte that waits is stored at BUF[IDX], and the next one is in flight unless it was the last (43_read R141,
R143). -/
theorem WriteRun.rxbyte (h : WriteRun s b es t) (hp : t.phase = .rxbyte) {v : Byte} (hv : t.lu.Offers v)
    (hi : t.idx.toNat < s.params.bufSize) :
    ∃ u, PromptReaches src 1 t (readLoop u) ∧
      WriteRun ((s.setBuf u.buf).setRxVal u.rxVal) b (es ++ [.rx v (rxAck t)]) u ∧ u.idx = t.idx + 1 ∧
      (∀ j, u.bufByte j = if j = t.idx.toNat then v else s.bufByte j) ∧ (rxAck t = .ack → u.lu.pend = .rxb) := by
  have hturn := h.turn (src := src)
  obtain ⟨hready, rfl, hpend⟩ := hv
  have hlu : (promptTurn src t).lu = t.lu := promptTurn_lu_of_none h.enabled hpend
  have hidx : (promptTurn src t).idx = t.idx := by simp
  have hlen : (promptTurn src t).len = t.len := envTurn_len _
  have hack : rxAck (promptTurn src t) = rxAck t := by rw [rxAck, hidx, hlen, rxAck]
  have hparams : (promptTurn src t).params = s.params := hturn.reads State.params fun _ => rfl
  have hrun := hturn.received
  rw [hlu, hack] at hrun
  refine ⟨_, .of_seqStep h.port (by simp [hp]) (seqStep_rxbyte_stores (by simp [hp]) hturn.clocked hturn.enabled
    (by rw [hlu, hready]) (by rwa [hidx, hparams])), hrun, ?_, fun j => ?_, fun ha => ?_⟩
  · rw [received_idx, hidx]
  · rw [received_bufByte, hidx, hlu, hturn.sameBuf]
  · rw [received_lu, hack, ha]
    rfl

/-- `t` has received `k` bytes of the read phase that runs in `s`, with the events `es`, and the next byte comes unless
it was the last. BUF and the byte RX returned are the phase's to write. -/
structure Received (src : Nat → Byte) (s : State) (es : List Event) (k : Nat) (t : State) : Prop where
  run : WriteRun ((s.setBuf t.buf).setRxVal t.rxVal) .owner es t
  idx : t.idx.toNat = k
  bytes : ∀ j, t.bufByte j = if j < k then src j else s.bufByte j
  coming : k < s.len → ByteComing src t

/-- The events of a read phase of `n` bytes up to its byte number `k` (43_read R143). -/
def readEventsAfter (r : Bool) (dev : BitVec 7) (src : Nat → Byte) (n k : Nat) : List Event :=
  [.start r, .addr (addressByte dev true)] ++
    (List.range k).map fun j => .rx (src j) (if j + 1 = n then .nack else .ack)

theorem readEventsAfter_succ (r : Bool) (dev : BitVec 7) (src : Nat → Byte) (n k : Nat) :
    readEventsAfter r dev src n (k + 1) =
      readEventsAfter r dev src n k ++ [.rx (src k) (if k + 1 = n then .nack else .ack)] := by
  simp [readEventsAfter, List.range_succ]

/-- The loop receives the next byte and comes back to its head (43_read R141). -/
theorem Received.loop {k : Nat} (h : Received src s es k t) (hfit : s.len ≤ s.params.bufSize) (hk : k < s.len) :
    ∃ u, PromptReaches src 2 (readLoop t) (readLoop u) ∧
      Received src s (es ++ [.rx (src k) (if k + 1 = s.len then .nack else .ack)]) (k + 1) u := by
  have hlen : t.len = s.len := h.run.reads State.len fun _ => rfl
  obtain ⟨u, hu, hrun, hp, hidx, hoffers⟩ :=
    (h.run.work .rxwait t.idx t.params.retryBudget t.act t.ret t.snap).rxwait (src := src) rfl (h.coming hk)
  have hidx' : u.idx.toNat = k := (congrArg BitVec.toNat hidx).trans h.idx
  have hlen' : u.len = s.len := hrun.reads State.len fun _ => rfl
  have hack : rxAck u = if k + 1 = s.len then .nack else .ack := by rw [rxAck, hidx', hlen']
  obtain ⟨v, hv, hrun', hnext, hbytes, hcoming⟩ :=
    hrun.rxbyte (src := src) hp hoffers (hidx'.trans_lt (hk.trans_le hfit))
  rw [hack] at hrun' hcoming
  rw [h.idx] at hrun' hbytes
  refine ⟨v, ?_, hrun', ?_, fun j => ?_, fun hmore => .inl (hcoming (if_neg hmore.ne))⟩
  · rw [readLoop_of_more (by rwa [h.idx, hlen])]
    exact hu.trans hv
  · have hbound : s.len < 2 ^ 16 := (s.arg.extractLsb' 0 16).isLt
    rw [hnext]
    bv_omega
  · rw [hbytes, hidx', ← h.run.sameBuf, h.bytes]
    obtain hlt | rfl | hgt := Nat.lt_trichotomy j k
    · rw [if_neg hlt.ne, if_pos hlt, if_pos (Nat.lt_succ_of_lt hlt)]
    · rw [if_pos rfl, if_pos (Nat.lt_succ_self j)]
    · rw [if_neg hgt.ne', if_neg (Nat.lt_asymm hgt), if_neg (by omega)]

/-- A read phase at its START, on a bus that is idle or owned and has no error, with a payload that fits BUF. -/
structure ReadLaunched (s : State) (b : BusState) : Prop where
  run : WriteRun s b [] s
  phase : s.phase = .start
  bus : b = .idle ∨ b = .owner
  read : s.isRead = true
  fits : s.len ≤ s.params.bufSize

/-- A read phase comes to the head of its loop after START, ADDR and one poll, and again after each byte. -/
theorem ReadLaunched.stream (h : ReadLaunched s b) {k : Nat} (hk : k ≤ s.len) :
    ∃ u, PromptReaches src (3 + 2 * k) s (readLoop u) ∧
      Received src s (readEventsAfter (decide (b = .owner)) s.dev src s.len k) k u := by
  induction k with
  | zero =>
    obtain ⟨t₁, r₁, h₁, hp₁⟩ := h.run.start_owns (src := src) h.phase h.bus
    obtain ⟨t₂, r₂, h₂, hp₂, hpend⟩ := h₁.addr_read (src := src) hp₁ h.read
    obtain ⟨t₃, r₃, h₃, hidx, hcoming⟩ := h₂.addrwait_read (src := src) hp₂ hpend h.read
    have hbuf : s.buf = t₃.buf := (h₃.reads State.buf fun _ => rfl).symm
    have hval : s.rxVal = t₃.rxVal := (h₃.reads State.rxVal fun _ => rfl).symm
    refine ⟨t₃, (r₁.trans r₂).trans r₃, ?_, by simp [hidx], fun j => by simp [h₃.sameBuf j], fun _ => hcoming⟩
    rw [← hbuf, ← hval]
    exact h₃
  | succ k ih =>
    obtain ⟨t, r, ht⟩ := ih (Nat.le_of_succ_le hk)
    obtain ⟨u, r', hu⟩ := ht.loop h.fits hk
    exact ⟨u, r.trans r', readEventsAfter_succ .. ▸ hu⟩

/-- A read phase comes to STOP with its length as the count and its bytes in BUF (43_read R141). -/
theorem ReadLaunched.reaches_stop (h : ReadLaunched s b) :
    ∃ u, PromptReaches src (3 + 2 * s.len) s u ∧
      Received src s (readEventsAfter (decide (b = .owner)) s.dev src s.len s.len) s.len u ∧ u.phase = .stop ∧
      u.ret.toNat = s.len := by
  obtain ⟨u, r, hu⟩ := h.stream (src := src) le_rfl
  have hend : u.len ≤ u.idx.toNat := by rw [hu.run.reads State.len fun _ => rfl, hu.idx]; exact le_rfl
  rw [readLoop_of_end hend] at r
  exact ⟨_, r, ⟨hu.run.work .stop u.idx u.retry u.act u.idx u.snap, hu.idx, hu.bytes, hu.coming⟩, rfl, hu.idx⟩

end

/-! ### READ -/

theorem exec_read {s : State} {dev : BitVec 7} {len : BitVec 16} (hp : s.phase = .idle) (hi : s.inited = true)
    (hl : len.toNat ≤ s.params.bufSize) :
    exec (.read dev len) s = .next (launch s 3#4 false 0#2 dev 0#16 len .start) :=
  whenReady_of_ready hp hi hl _

/-- A launch of READ on a bus that is idle or owned and has no error, with a payload that fits BUF. -/
theorem readLaunched_of_read {s : State} {len : BitVec 16} (dev : BitVec 7) (hport : s.luPort = none)
    (hc : s.extClken = true) (he : s.lu.enable = true) (hn : s.lu.busErr = false)
    (hb : s.lu.busState = .idle ∨ s.lu.busState = .owner) (hl : len.toNat ≤ s.params.bufSize) :
    ReadLaunched (launch s 3#4 false 0#2 dev 0#16 len .start) s.lu.busState :=
  ⟨⟨rfl, by simp, hport, hc, he, hn, rfl⟩, rfl, hb, rfl, (len_launch ..).trans_le hl⟩

/-- Settles O51: the launch, the read phase to its STOP, and the end of the command. -/
theorem readCompletesPromptly : Obligations.ReadCompletesPromptly := by
  intro src s dev len hport hp hi hc he hn hb hl
  obtain ⟨u, r, hu, hphase, hret⟩ := (readLaunched_of_read dev hport hc he hn hb hl).reaches_stop (src := src)
  have hop : (3#4 : BitVec 4) ≠ opReadRegs := by decide
  obtain ⟨v, r₁, h₁, hp₁, hret₁, hheld⟩ := hu.run.stop (src := src) hphase hop
  obtain ⟨t, r₂, h₂, hp₂, hcount, hheld'⟩ := h₁.done (src := src) hp₁ hop
  have hrun := ((r.trans r₁).trans r₂).run_eq
  rw [len_launch] at hrun hret
  refine ⟨t, ?_, hp₂, ?_, ?_, h₂.reads State.fail fun _ => rfl, hheld'.trans hheld, h₂.bus, fun j => ?_⟩
  · rwa [exec_read hp hi hl, andThen_next, show 5 + 2 * len.toNat = 3 + 2 * len.toNat + 1 + 1 by omega]
  · rw [h₂.trace, len_launch]
    rfl
  · rw [hcount, hret₁, hret]
  · calc t.bufByte j = u.bufByte j := (h₂.sameBuf j).trans (hu.run.sameBuf j).symm
      _ = _ := by rw [hu.bytes, len_launch]; rfl

end Sys2Proof.Machine
end

section
/-! PROOF. Register access on a prompt, acknowledging bus (44_register_access R160 to R170): the launch with the frame
in FR0 and FR1, the write phase whose stream begins with the frame, and the read phase that follows it in READ_REGS. -/

namespace Sys2Proof.Machine

/-! ### The launch of a framed command -/

/-- A write phase launched with the bytes `a` and `b` in FR0 and FR1 (44_register_access R161). -/
def framedLaunch (s : State) (op : BitVec 4) (hold : Bool) (asize : BitVec 2) (dev : BitVec 7) (reg : BitVec 16)
    (len : BitVec 16) (a b : Byte) : State :=
  { launch s op hold asize dev reg len .errchk with fr0 := a, fr1 := b }

/-- FR0 and FR1 hold the frame of REG (44_register_access R161). -/
def State.HoldsFrame (s : State) : Prop :=
  frame s.reg s.asize = (List.range s.asize.toNat).map fun j => if j = 0 then s.fr0 else s.fr1

theorem exec_writeRegs {s : State} {asize : BitVec 2} {len : BitVec 16} (dev : BitVec 7) (reg : BitVec 16) (hold : Bool)
    (hp : s.phase = .idle) (hi : s.inited = true) (hl : len.toNat ≤ s.params.bufSize) (ha : asize = 1#2 ∨ asize = 2#2) :
    ∃ a b, exec (.writeRegs dev reg asize len hold) s = .next (framedLaunch s 4#4 hold asize dev reg len a b) ∧
      (framedLaunch s 4#4 hold asize dev reg len a b).HoldsFrame := by
  obtain ⟨-, -, one, two⟩ := transferCommandsLaunch s dev reg asize len hold hp hi hl
  obtain rfl | rfl := ha
  · obtain ⟨h, -⟩ := one rfl
    exact ⟨_, _, h, rfl⟩
  · obtain ⟨h, -⟩ := two rfl
    exact ⟨_, _, h, rfl⟩

/-- READ_REGS begins with STAGE = 0 (44_register_access R169). -/
theorem exec_readRegs {s : State} {asize : BitVec 2} {len : BitVec 16} (dev : BitVec 7) (reg : BitVec 16)
    (hp : s.phase = .idle) (hi : s.inited = true) (hl : len.toNat ≤ s.params.bufSize) (ha : asize = 1#2 ∨ asize = 2#2) :
    ∃ a b, exec (.readRegs dev reg asize len) s =
        .next (framedLaunch (s.setStage false) 5#4 false asize dev reg len a b) ∧
      (framedLaunch (s.setStage false) 5#4 false asize dev reg len a b).HoldsFrame := by
  obtain ⟨-, -, one, two⟩ := transferCommandsLaunch s dev reg asize len false hp hi hl
  obtain rfl | rfl := ha
  · obtain ⟨-, h⟩ := one rfl
    exact ⟨_, _, h, rfl⟩
  · obtain ⟨-, h⟩ := two rfl
    exact ⟨_, _, h, rfl⟩

theorem len_framedLaunch (s : State) (op : BitVec 4) (hold : Bool) (asize : BitVec 2) (dev : BitVec 7) (reg : BitVec 16)
    (len : BitVec 16) (a b : Byte) : (framedLaunch s op hold asize dev reg len a b).len = len.toNat :=
  len_launch s op hold asize dev reg len .errchk

/-- A launch of a framed command on an idle bus without error, with a payload that fits BUF. -/
theorem writeLaunched_of_framed {s : State} {len : BitVec 16} (op : BitVec 4) (hold : Bool) (asize : BitVec 2)
    (dev : BitVec 7) (reg : BitVec 16) (a b : Byte) (hport : s.luPort = none) (hc : s.extClken = true)
    (he : s.lu.enable = true) (hn : s.lu.busErr = false) (hb : s.lu.busState = .idle)
    (hr : (framedLaunch s op hold asize dev reg len a b).isRead = false) (hl : len.toNat ≤ s.params.bufSize) :
    WriteLaunched (framedLaunch s op hold asize dev reg len a b) :=
  ⟨⟨rfl, (List.append_nil _).symm, hport, hc, he, hn, hb⟩, rfl, rfl, hr, (len_framedLaunch ..).trans_le hl⟩

/-! ### A stream that begins with the frame -/

theorem streamLen_of_writeRegs {s : State} (h : s.op = 4#4) : s.streamLen = s.asize.toNat + s.len := by
  simp [State.streamLen, opReadRegs, frameLen_of_framed (.inl h), h]

theorem streamLen_of_readRegs {s : State} (h : s.op = 5#4) : s.streamLen = s.asize.toNat :=
  (if_pos h).trans (frameLen_of_framed (.inr h))

theorem streamAt_of_frame {s : State} {j : Nat} (h : j < s.frameLen) :
    s.streamAt j = if j = 0 then s.fr0 else s.fr1 :=
  if_pos h

theorem streamAt_of_payload (s : State) (j : Nat) : s.streamAt (s.frameLen + j) = s.bufByte j := by
  simp [State.streamAt]

/-- The stream of a framed command is the frame, then BUF from index 0 (44_register_access R165). -/
theorem streamAt_of_framed {s : State} (hop : s.op = 4#4 ∨ s.op = 5#4) (hf : s.HoldsFrame) (n : Nat) :
    (List.range (s.asize.toNat + n)).map s.streamAt = frame s.reg s.asize ++ (List.range n).map s.bufByte := by
  rw [hf, ← frameLen_of_framed hop, List.range_add, List.map_append, List.map_map]
  congr 1
  · exact List.map_congr_left fun j hj => streamAt_of_frame (List.mem_range.mp hj)
  · exact List.map_congr_left fun j _ => streamAt_of_payload s j

theorem eventsAfter_of_framed {s : State} (hop : s.op = 4#4 ∨ s.op = 5#4) (hf : s.HoldsFrame) (n : Nat) :
    eventsAfter s (s.asize.toNat + n) =
      [.start false, .addr (addressByte s.dev false)] ++
        (frame s.reg s.asize ++ (List.range n).map s.bufByte).map .tx := by
  rw [← streamAt_of_framed hop hf, List.map_map]
  rfl

/-! ### WRITE_REGS -/

/-- Settles O50: the launch, then the run of a write phase whose stream begins with the frame. -/
theorem writeRegsCompletesPromptly : Obligations.WriteRegsCompletesPromptly := by
  intro src s dev reg asize len hport hp hi hc he hn hb _ hl ha
  obtain ⟨a, b, hexec, hf⟩ := exec_writeRegs dev reg false hp hi hl ha
  obtain ⟨t, hrun, ht, hphase, hcount, hheld⟩ :=
    (writeLaunched_of_framed 4#4 false asize dev reg a b hport hc he hn hb rfl hl).completes (src := src)
      (show 4#4 ≠ 5#4 by decide) rfl
  rw [streamLen_of_writeRegs rfl] at hrun ht hcount
  have htrace := ht.trace
  rw [eventsAfter_of_framed (.inl rfl) hf] at htrace
  rw [len_framedLaunch] at hrun hcount htrace
  refine ⟨t, ?_, hphase, htrace, hcount, ht.reads State.fail fun _ => rfl, hheld, ht.bus, ht.sameBuf⟩
  rwa [hexec]

/-! ### The two phases of READ_REGS -/

section
variable {src : Nat → Byte} {s t : State} {b : BusState} {es : List Event}

/-- What a run has reached is where the next phase can begin. -/
theorem WriteRun.fresh (h : WriteRun s b es t) : WriteRun t b [] t :=
  ⟨rfl, (List.append_nil _).symm, h.port, h.clocked, h.enabled, h.noErr, h.bus⟩

/-- Writing STAGE: the run is then one from the state with the same STAGE written. -/
theorem WriteRun.setStage (h : WriteRun s b es t) (stage : Bool) :
    WriteRun (s.setStage stage) b es (t.setStage stage) :=
  ⟨congrArg (State.setStage · stage) h.fixed, h.trace, h.port, h.clocked, h.enabled, h.noErr, h.bus⟩

/-- The write phase of READ_REGS ends held, and the read phase begins at its START (44_register_access R169). -/
theorem WriteLaunched.reaches_read (h : WriteLaunched s) (hop : s.op = opReadRegs) (hst : s.stage = false) :
    ∃ u, PromptReaches src (5 + 2 * s.streamLen) s u ∧
      WriteRun (s.setStage true) .owner (eventsAfter s s.streamLen) u ∧ u.phase = .start := by
  obtain ⟨u, r, hrun, hidx⟩ := h.stream (src := src) le_rfl
  have hend : u.streamLen ≤ u.idx.toNat := by rw [hrun.reads State.streamLen fun _ => rfl, hidx]
  have hholds : u.holds = true := by rw [hrun.reads State.holds fun _ => rfl, State.holds, hop]; exact Bool.or_true _
  have hop' : u.op = opReadRegs := (hrun.reads State.op fun _ => rfl).trans hop
  have hst' : u.stage = false := (hrun.reads State.stage fun _ => rfl).trans hst
  have hafter : afterPhase ((u.setHeld true).setRet u.idx) =
      (((u.setHeld true).setRet u.idx).setStage true).setPhase .start := by simp [afterPhase, hop', hst']
  rw [writeLoop_of_end_held hend hholds, hafter] at r
  exact ⟨_, r, ((hrun.setHeld true).setStage true).work .start u.idx u.retry u.act u.idx u.snap, rfl⟩

theorem afterPhase_of_second {s : State} (h : s.stage = true) : afterPhase s = s.setPhase .done := by
  obtain ⟨-, hfirst, -⟩ | ⟨-, e⟩ := afterPhase_cases s
  · exact absurd (h.symm.trans hfirst) (by decide)
  · exact e

/-- STOP in the second phase of READ_REGS releases the bus, and the command is at its end (44_register_access R169). -/
theorem WriteRun.stop_second (h : WriteRun s .owner es t) (hp : t.phase = .stop) (hst : s.stage = true) :
    ∃ u, PromptReaches src 1 t u ∧ WriteRun s .idle (es ++ [.stop]) u ∧ u.phase = .done ∧ u.ret = t.ret ∧
      u.held = false := by
  have hturn := h.turn (src := src)
  obtain ⟨hrelease, -⟩ := (promptTurn src t).lu.stop_busState
  have hrun := (hturn.setHeld false).operate (promptTurn src t).lu.stop rfl rfl (hrelease hturn.bus) .stop
  have hseq := (seqStep_stop_ends (by simp [hp]) hturn.clocked hturn.enabled).trans (congrArg _
    (afterPhase_of_second ((hrun.reads State.stage fun _ => rfl).trans hst)))
  exact ⟨_, .of_seqStep h.port (by simp [hp]) hseq, hrun.work .., rfl, by simp, rfl⟩

/-- The end of a command writes its count, PHASE and, for READ_REGS, STAGE (60_exceptions R197, 44_register_access
R169). -/
theorem WriteRun.finishes (h : WriteRun s b es t) (hp : t.phase = .done) :
    ∃ u, PromptReaches src 1 t u ∧ WriteRun (s.setStage u.stage) b es u ∧ u.phase = .idle ∧ u.count = t.ret ∧
      u.held = t.held := by
  have hturn := h.turn (src := src)
  have hseq : seqStep (promptTurn src t) = .next (finish (promptTurn src t)) := by simp [seqStep, hp]
  have hrun := hturn.setStage (finish (promptTurn src t)).stage
  exact ⟨_, .of_seqStep h.port (by simp [hp]) hseq,
    ⟨hrun.fixed, hrun.trace, hrun.port, hrun.clocked, hrun.enabled, hrun.noErr, hrun.bus⟩, rfl, by simp, by simp⟩

/-- The read phase of READ_REGS to the end of the command: the payload in BUF, one STOP, and the payload's length as the
count (44_register_access R169, R170). -/
theorem ReadLaunched.completes_second (h : ReadLaunched s b) (hst : s.stage = true) :
    ∃ t, PromptReaches src (5 + 2 * s.len) s t ∧ t.phase = .idle ∧
      t.trace = s.trace ++ readEvents (decide (b = .owner)) s.dev src s.len ∧ t.count.toNat = s.len ∧
      t.fail = s.fail ∧ t.held = false ∧ t.lu.busState = .idle ∧
      ∀ j, t.bufByte j = if j < s.len then src j else s.bufByte j := by
  obtain ⟨u, r, hu, hphase, hret⟩ := h.reaches_stop (src := src)
  obtain ⟨v, r₁, h₁, hp₁, hret₁, hheld⟩ := hu.run.stop_second (src := src) hphase hst
  obtain ⟨t, r₂, h₂, hp₂, hcount, hheld'⟩ := h₁.finishes (src := src) hp₁
  refine ⟨t, ?_, hp₂, h₂.trace, by rw [hcount, hret₁, hret], h₂.reads State.fail fun _ => rfl, hheld'.trans hheld,
    h₂.bus, fun j => ?_⟩
  · rw [show 5 + 2 * s.len = 3 + 2 * s.len + 1 + 1 by omega]
    exact (r.trans r₁).trans r₂
  · rw [← hu.bytes]
    exact (h₂.sameBuf j).trans (hu.run.sameBuf j).symm

/-- The read phase of READ_REGS begins on the bus that its write phase left owned. -/
theorem WriteRun.readLaunched (h : WriteRun s .owner es t) (hp : t.phase = .start) (hr : s.isRead = true)
    (hfit : s.len ≤ s.params.bufSize) : ReadLaunched t .owner :=
  ⟨h.fresh, hp, .inr rfl, (h.reads State.isRead fun _ => rfl).trans hr, by
    rwa [h.reads State.len fun _ => rfl, h.reads State.params fun _ => rfl]⟩

/-- READ_REGS from its launch to its end: the write phase, held, then the read phase (44_register_access R169). -/
theorem WriteLaunched.completes_readRegs (h : WriteLaunched s) (hop : s.op = opReadRegs) (hst : s.stage = false) :
    ∃ t, promptRun src (10 + 2 * (s.streamLen + s.len)) s = .next t ∧ t.phase = .idle ∧
      t.trace = s.trace ++ (eventsAfter s s.streamLen ++ readEvents true s.dev src s.len) ∧
      t.count.toNat = s.len ∧ t.fail = s.fail ∧ t.held = false ∧ t.lu.busState = .idle ∧
      ∀ j, t.bufByte j = if j < s.len then src j else s.bufByte j := by
  obtain ⟨u, r, hrun, hp⟩ := h.reaches_read (src := src) hop hst
  have hread : (s.setStage true).isRead = true := by simp [State.isRead, hop]
  obtain ⟨t, r', hphase, htrace, hcount, hfail, hheld, hbus, hbytes⟩ :=
    (hrun.readLaunched hp hread h.fits).completes_second (src := src) (hrun.reads State.stage fun _ => rfl)
  have hlen : u.len = s.len := hrun.reads State.len fun _ => rfl
  have hdev : u.dev = s.dev := hrun.reads State.dev fun _ => rfl
  rw [hlen] at r' htrace hcount hbytes
  refine ⟨t, ?_, hphase, ?_, hcount, hfail.trans (hrun.reads State.fail fun _ => rfl), hheld, hbus, fun j => ?_⟩
  · rw [show 10 + 2 * (s.streamLen + s.len) = 5 + 2 * s.streamLen + (5 + 2 * s.len) by omega]
    exact (r.trans r').run_eq
  · rw [htrace, hrun.trace, hdev, List.append_assoc]
    rfl
  · have hbuf : u.bufByte j = s.bufByte j := hrun.sameBuf j
    rw [hbytes, hbuf]

end

/-! ### READ_REGS -/

/-- Settles O52: the launch, the frame in a held write phase, and the payload in a read phase that ends by STOP. -/
theorem readRegsCompletesPromptly : Obligations.ReadRegsCompletesPromptly := by
  intro src s dev reg asize len hport hp hi hc he hn hb _ hl ha
  obtain ⟨a, b, hexec, hf⟩ := exec_readRegs dev reg hp hi hl ha
  obtain ⟨t, hrun, hphase, htrace, hrest⟩ :=
    (writeLaunched_of_framed (s := s.setStage false) 5#4 false asize dev reg a b hport hc he hn hb rfl
      hl).completes_readRegs (src := src) rfl rfl
  have hevents := eventsAfter_of_framed (.inr rfl) hf 0
  rw [Nat.add_zero, List.range_zero, List.map_nil, List.append_nil] at hevents
  rw [streamLen_of_readRegs rfl] at hrun htrace
  rw [hevents] at htrace
  rw [len_framedLaunch] at hrun htrace hrest
  refine ⟨t, ?_, hphase, htrace, hrest⟩
  rwa [hexec]

end Sys2Proof.Machine
end

section
/-! PROOF. What clears a recorded failure (60_exceptions R195) and a bus error (R199): the three things a host access
can be, what an operation and a sequencer step leave of FAIL and of BUSERR. -/

namespace Sys2Proof.Machine

/-- A host access launches a transfer, which clears FAIL and leaves the line unit; runs INIT, which keeps FAIL; or does
neither and leaves both. -/
theorem hostAccess_effect {a : HostAct} {s t : State} (h : hostAccess a s = .next t) :
    (t.lu = s.lu ∧ t.fail = s.fail) ∨
    (t.fail = s.fail ∧ s.inited = false ∧ t.inited = true) ∨
    (t.lu = s.lu ∧ t.fail = .none ∧ (t.phase = .errchk ∨ t.phase = .start)) := by
  obtain ⟨-, ⟨d, i, hd, h⟩ | ⟨_, rfl⟩ | ⟨_, _, -, rfl⟩⟩ := hostAccess_cases h
  · by_cases hinit : ∃ baud, i = .init baud
    · obtain ⟨baud, rfl⟩ := hinit
      obtain ⟨-, hi, -, h⟩ := init_inv h
      rw [bringUp_eq] at h
      cases h
      exact .inr (.inl ⟨rfl, hi, rfl⟩)
    · obtain ⟨-, -, hph, -, _, _, _, _, _, _, _, _, _, _, rfl⟩ :=
        transfer_inv (decodeCmd_isCommand hd) (fun baud e => hinit ⟨baud, e⟩) h
      exact .inr (.inr ⟨rfl, rfl, hph⟩)
  · exact .inl ⟨rfl, rfl⟩
  · exact .inl ⟨rfl, rfl⟩

/-! ### A recorded failure -/

theorem exec_lu_keeps_fail {i : Instr} {s t : State} (hi : i.isCommand = false) (h : exec i s = .next t) :
    t.fail = s.fail := by
  obtain ⟨_, _, _, _, _, _, _, rfl⟩ := exec_lu_shape hi h
  rfl

theorem failLoop_keeps_fail {s : State} (hf : s.fail ≠ .none) (f : Fail) : (failLoop s f).fail = s.fail :=
  if_neg hf

theorem failAddr_keeps_fail {s : State} (hf : s.fail ≠ .none) : (failAddr s).fail = s.fail := if_neg hf

theorem countPoll_keeps_fail {s : State} (hf : s.fail ≠ .none) : (countPoll s).fail = s.fail := by
  obtain e | e := countPoll_cases s <;> rw [e]
  · rfl
  · exact failLoop_keeps_fail hf _

theorem testAddrwait_keeps_fail {s : State} (hf : s.fail ≠ .none) : (testAddrwait s).fail = s.fail := by
  obtain e | e | e | ⟨-, -, -, e⟩ := testAddrwait_cases s <;> rw [e]
  · exact failAddr_keeps_fail hf
  · exact readLoop_fail _
  · exact writeLoop_fail _

theorem testTxwait_keeps_fail {s : State} (hf : s.fail ≠ .none) : (testTxwait s).fail = s.fail := by
  obtain ⟨f, e⟩ | e | ⟨-, -, e⟩ := testTxwait_cases s <;> rw [e]
  · exact failLoop_keeps_fail hf f
  · exact countPoll_keeps_fail hf
  · exact writeLoop_fail _

theorem testRxwait_keeps_fail {s : State} (hf : s.fail ≠ .none) : (testRxwait s).fail = s.fail := by
  obtain e | e | ⟨f, e⟩ | e := testRxwait_cases s <;> rw [e]
  · rfl
  · exact failLoop_keeps_fail hf f
  · exact countPoll_keeps_fail hf

/-- The sequencer writes FAIL in the three waits alone, and there only by `raise`. -/
theorem seqStep_keeps_fail {s t : State} (h : seqStep s = .next t) (hf : s.fail ≠ .none) : t.fail = s.fail := by
  cases hp : s.phase
  case idle => simp only [seqStep, hp] at h; cases h; rfl
  case init =>
    obtain ⟨-, h⟩ := seqStep_init hp h
    rw [bringUp_eq] at h
    cases h
    rfl
  case errchk =>
    obtain rfl | ⟨-, rfl⟩ := seqStep_errchk hp h
    · simp
    · obtain e | e := testErrchk_cases (s.setSnap s.lu.snapshot) <;> simp [e]
  case idlechk =>
    obtain ⟨-, rfl⟩ | ⟨-, rfl⟩ := seqStep_idlechk hp h
    · simp
    · obtain ⟨-, -, e⟩ | ⟨-, e⟩ := testIdlechk_cases (s.setSnap s.lu.snapshot) <;> simp [e]
  case idlewait =>
    rw [seqStep_idlewait hp h]
    obtain e | e := testIdlewait_cases (s.setSnap s.lu.snapshot) <;> simp [e]
  case start => simp [seqStep_start hp h]
  case addr => obtain ⟨_, _, -, rfl⟩ := seqStep_addr hp h; simp
  case addrwait => rw [seqStep_addrwait hp h]; exact testAddrwait_keeps_fail hf
  case txbyte => obtain ⟨_, -, rfl⟩ := seqStep_txbyte hp h; simp [startWait]
  case txwait => rw [seqStep_txwait hp h]; exact testTxwait_keeps_fail hf
  case rxwait => rw [seqStep_rxwait hp h]; exact testRxwait_keeps_fail hf
  case rxbyte => obtain ⟨_, _, _, rfl⟩ := seqStep_rxbyte hp h; simp
  case stop => simp [seqStep_stop hp h]
  case done => simp [seqStep_done hp h]

/-- Settles O35: of the four sources of a step only a host access that launches a transfer clears FAIL. -/
theorem firstFailureKept : Obligations.FirstFailureKept := by
  intro s t h hf
  rw [← envTurn_fail s] at hf ⊢
  obtain ⟨a, -, h⟩ | ⟨-, -, -, rfl⟩ | ⟨a, rest, -, hp, -, h⟩ | ⟨-, -, h⟩ := step_cases h
  · obtain ⟨i, hi, h⟩ := accessLu_cases h
    exact .inl ((exec_lu_keeps_fail (decodeLu_isCommand hi) h).trans (setPort_fail _ _))
  · exact .inl rfl
  · obtain ⟨-, hkept⟩ | ⟨hkept, -⟩ | ⟨-, hcleared, hph⟩ := hostAccess_effect h
    · exact .inl (hkept.trans (setHost_fail _ _))
    · exact .inl (hkept.trans (setHost_fail _ _))
    · exact .inr ⟨hp, hcleared, hph⟩
  · exact .inl (seqStep_keeps_fail h hf)

/-! ### A bus error -/

theorem BusMove.apply_keeps_busErr (m : BusMove) {u : LineUnit} (h : u.busErr = true) :
    (m.apply u).busErr = true := by
  unfold BusMove.apply
  split
  · cases m with
    | addrRead k => cases k <;> exact h
    | busError => rfl
    | _ => exact h
  · exact h

/-- Every operation of the line unit keeps BUSERR but ERRCLR (40_line_unit_ops R87) and SWRST (R82). -/
theorem exec_lu_keeps_busErr {i : Instr} {s t : State} (hi : i.isCommand = false) (hec : i ≠ .errclr)
    (hsw : i ≠ .swrst) (h : exec i s = .next t) : t.lu.busErr = s.lu.busErr := by
  cases i with
  | init => cases hi
  | write => cases hi
  | read => cases hi
  | writeRegs => cases hi
  | readRegs => cases hi
  | clken => cases h; rfl
  | pinmux => cases h; rfl
  | swrst => exact absurd rfl hsw
  | setmode => obtain ⟨-, -, h⟩ := whenDisabled_eq_next.mp h; cases h; rfl
  | setbaud d => obtain ⟨-, -, h⟩ := whenDisabled_eq_next.mp h; cases h; rfl
  | enable => obtain ⟨-, h⟩ := whenClocked_eq_next.mp h; cases h; rfl
  | snap => obtain ⟨-, rfl⟩ := snap_inv h; rfl
  | errclr => exact absurd rfl hec
  | forceidle => obtain ⟨-, -, rfl⟩ := forceidle_inv h; rfl
  | start => obtain ⟨-, -, rfl⟩ := start_inv h; rfl
  | addr b => obtain ⟨-, -, rfl⟩ := addr_inv h; rfl
  | tx b => obtain ⟨-, -, rfl⟩ := tx_inv h; rfl
  | rx a =>
    obtain ⟨-, -, -, rfl⟩ := rx_inv h
    obtain ⟨-, -, herr⟩ := s.lu.rx_leaves a
    exact herr
  | stop => obtain ⟨-, -, rfl⟩ := stop_inv h; rfl

/-- The sequencer issues ERRCLR as RECOVER's remedy alone (45_recovery R181), and SWRST never. -/
theorem seqOp_of_not_errclr {s : State} {i : Instr} (h : seqOp s = some i)
    (hn : ¬(s.phase = .errchk ∧ s.act = true)) : i ≠ .errclr ∧ i ≠ .swrst := by
  unfold seqOp at h
  cases hp : s.phase <;> simp only [hp, reduceCtorEq, Option.some.injEq] at h hn
  case errchk =>
    have ha : ¬ s.act = true := fun ha => hn ⟨trivial, ha⟩
    rw [if_neg ha] at h
    subst h
    exact ⟨nofun, nofun⟩
  case idlechk => subst h; split <;> exact ⟨nofun, nofun⟩
  case txbyte => split at h <;> cases h; exact ⟨nofun, nofun⟩
  all_goals subst h; exact ⟨nofun, nofun⟩

/-- Outside INIT the sequencer clears BUSERR by RECOVER's remedy at ERRCHK, which goes on to IDLECHK. -/
theorem seqStep_clears_busErr {s t : State} (h : seqStep s = .next t) (hinit : s.phase ≠ .init)
    (hs : s.lu.busErr = true) (ht : t.lu.busErr = false) :
    s.phase = .errchk ∧ s.act = true ∧ t.phase = .idlechk := by
  by_cases hrec : s.phase = .errchk ∧ s.act = true
  · obtain ⟨hp, ha⟩ := hrec
    obtain rfl | ⟨ha', -⟩ := seqStep_errchk hp h
    · exact ⟨hp, ha, rfl⟩
    · cases ha.symm.trans ha'
  · have hkept : t.lu.busErr = s.lu.busErr := by
      obtain ⟨-, rfl⟩ | ⟨hp, -⟩ | ⟨-, rfl⟩ | ⟨i, u, hop, hu, hk⟩ := seqStep_cases h
      · rfl
      · exact absurd hp hinit
      · rfl
      · obtain ⟨hec, hsw⟩ := seqOp_of_not_errclr hop hrec
        have herr := exec_lu_keeps_busErr (seqOp_isCommand hop) hec hsw hu
        obtain ⟨-, hk⟩ | ⟨-, -, hk⟩ := hk <;> (rw [hk.lu_eq]; exact herr)
    cases hs.symm.trans (hkept.symm.trans ht)

/-- Settles O36: no move of the bus agent and no launch clears BUSERR, and of what the sequencer issues only RECOVER's
ERRCLR does. -/
theorem busErrorClearedOnlyByRecovery : Obligations.BusErrorClearedOnlyByRecovery := by
  intro s t h hl hs ht
  have he : (envTurn s).lu.busErr = true :=
    envTurn_lu_induct (Q := fun u => u.busErr = true) (fun b _ _ => b.apply_keeps_busErr) hs
  have not_kept (hlu : t.lu = (envTurn s).lu) : False := by
    rw [hlu, he] at ht
    cases ht
  obtain ⟨a, ha, -⟩ | ⟨-, -, -, rfl⟩ | ⟨a, rest, -, hp, -, h⟩ | ⟨-, -, h⟩ := step_cases h
  · cases ha.symm.trans hl
  · exact (not_kept rfl).elim
  · obtain ⟨hlu, -⟩ | ⟨-, hi, hi'⟩ | ⟨hlu, -⟩ := hostAccess_effect h
    · exact (not_kept hlu).elim
    · exact .inr (.inr ⟨hp, by simpa using hi, hi'⟩)
    · exact (not_kept hlu).elim
  · by_cases hinit : s.phase = .init
    · exact .inr (.inl hinit)
    · exact .inl (by simpa using seqStep_clears_busErr h (by simpa using hinit) he ht)

end Sys2Proof.Machine
end

section
/-! PROOF. The waits under a bus agent that does nothing (60_exceptions R190 to R194): an address wait never ends by
itself, a data wait ends with its budget of polls, a not-acknowledged address ends the command by STOP. -/

namespace Sys2Proof.Machine

/-! ### A silent turn -/

/-- The state after a turn in which the bus agent does nothing. -/
def State.afterSilence (s : State) : State := { s with agent := s.agent.tail, tick := s.tick + 1 }

@[simp] theorem afterSilence_phase (s : State) : s.afterSilence.phase = s.phase := rfl
@[simp] theorem afterSilence_idx (s : State) : s.afterSilence.idx = s.idx := rfl
@[simp] theorem afterSilence_retry (s : State) : s.afterSilence.retry = s.retry := rfl
@[simp] theorem afterSilence_ret (s : State) : s.afterSilence.ret = s.ret := rfl
@[simp] theorem afterSilence_op (s : State) : s.afterSilence.op = s.op := rfl
@[simp] theorem afterSilence_fail (s : State) : s.afterSilence.fail = s.fail := rfl
@[simp] theorem afterSilence_held (s : State) : s.afterSilence.held = s.held := rfl
@[simp] theorem afterSilence_lu (s : State) : s.afterSilence.lu = s.lu := rfl
@[simp] theorem afterSilence_extClken (s : State) : s.afterSilence.extClken = s.extClken := rfl
@[simp] theorem afterSilence_trace (s : State) : s.afterSilence.trace = s.trace := rfl
@[simp] theorem afterSilence_luPort (s : State) : s.afterSilence.luPort = s.luPort := rfl
@[simp] theorem afterSilence_buf (s : State) : s.afterSilence.buf = s.buf := rfl
@[simp] theorem afterSilence_params (s : State) : s.afterSilence.params = s.params := rfl

theorem envTurn_of_silent {s : State} {n : Nat} (ha : s.agent = silent (n + 1)) : envTurn s = s.afterSilence := by
  rw [envTurn_silent (rest := silent n) ha, State.afterSilence, ha]
  rfl

/-- A step of a running command after a silent turn is the sequencer's alone. -/
theorem step_of_silent {s : State} {n : Nat} (hl : s.luPort = none) (hp : s.phase ≠ .idle)
    (ha : s.agent = silent (n + 1)) : step s = seqStep s.afterSilence := by
  simp [step, fetchStep, envTurn_of_silent ha, hl, hp]

theorem afterSilence_agent {s : State} {n : Nat} (ha : s.agent = silent (n + 1)) :
    s.afterSilence.agent = silent n :=
  congrArg List.tail ha

/-- The state at the test of a poll: after a silent turn, with SNAP's snapshot. -/
abbrev State.polled (s : State) : State := s.afterSilence.setSnap s.lu.snapshot

theorem runSteps_of_step {s t : State} (h : step s = .next t) (n : Nat) : runSteps (n + 1) s = runSteps n t := by
  rw [runSteps, h, andThen_next]

/-! ### The address wait -/

theorem step_addrwait_silent {s : State} {n : Nat} (hp : s.phase = .addrwait) (hl : s.luPort = none)
    (hc : s.extClken = true) (ha : s.agent = silent (n + 1)) : step s = .next (testAddrwait s.polled) :=
  (step_of_silent hl (by simp [hp]) ha).trans (seqStep_addrwait_tests hp hc)

/-- Settles O45, by induction on the number of polls: each one sees the byte not complete and changes nothing. -/
theorem stallNeverEnds : Obligations.StallNeverEnds := by
  intro n
  induction n with
  | zero => exact fun s hp _ _ _ _ _ => ⟨s, rfl, hp, rfl, rfl, rfl, rfl, rfl⟩
  | succ n ih =>
    intro s hp hl hc hd hr ha
    have hpoll := step_addrwait_silent hp hl hc ha
    rw [testAddrwait_of_pending hd (.inr hr)] at hpoll
    rw [runSteps_of_step hpoll]
    exact ih s.polled hp hl hc hd hr (afterSilence_agent ha)

/-! ### The data waits -/

/-- A data wait whose byte has neither completed nor met a bus error. -/
structure DataPending (s : State) : Prop where
  port : s.luPort = none
  clocked : s.extClken = true
  noErr : s.lu.busErr = false
  wait : s.phase = .txwait ∧ s.lu.txDone = false ∨ s.phase = .rxwait ∧ s.lu.rxRdy = false

/-- Either data wait only counts the poll. -/
theorem DataPending.step_silent {s : State} {n : Nat} (h : DataPending s) (ha : s.agent = silent (n + 1)) :
    step s = .next (countPoll s.polled) := by
  obtain ⟨hp, hd⟩ | ⟨hp, hr⟩ := h.wait
  · calc step s
        = seqStep s.afterSilence := step_of_silent h.port (by simp [hp]) ha
      _ = .next (testTxwait s.polled) := seqStep_txwait_tests hp h.clocked
      _ = .next (countPoll s.polled) := by rw [testTxwait_of_pending h.noErr hd]
  · calc step s
        = seqStep s.afterSilence := step_of_silent h.port (by simp [hp]) ha
      _ = .next (testRxwait s.polled) := seqStep_rxwait_tests hp h.clocked
      _ = .next (countPoll s.polled) := by rw [testRxwait_of_pending h.noErr hr]

theorem DataPending.step_more {s : State} {k n : Nat} (h : DataPending s) (hr : s.retry = k + 2)
    (ha : s.agent = silent (n + 1)) : step s = .next (s.polled.setRetry (k + 1)) := by
  have hr' : s.polled.retry - 1 = k + 1 := by simp [hr]
  rw [h.step_silent ha, countPoll_of_more (by simp [hr]), hr']

theorem DataPending.step_last {s : State} {n : Nat} (h : DataPending s) (hr : s.retry = 1)
    (ha : s.agent = silent (n + 1)) : step s = .next (failLoop (s.polled.setRetry 0) .pollTimeout) := by
  rw [h.step_silent ha, countPoll_of_last (by simp [hr])]

/-- All but the last poll leave the wait pending with one poll less. -/
theorem DataPending.polled {s : State} (h : DataPending s) (n : Nat) : DataPending (s.polled.setRetry n) :=
  ⟨h.port, h.clocked, h.noErr, h.wait⟩

theorem DataPending.times_out {k : Nat} {s : State} (h : DataPending s) (hr : s.retry = k + 1)
    (ha : s.agent = silent (k + 1)) :
    ∃ t, runSteps (k + 1) s = .next t ∧ t.phase = .stop ∧ t.retry = 0 ∧ t.ret = s.idx
      ∧ t.fail = (if s.fail = .none then .pollTimeout else s.fail) ∧ t.lu = s.lu ∧ t.trace = s.trace := by
  induction k generalizing s with
  | zero => exact ⟨_, runSteps_of_step (h.step_last hr ha) 0, rfl, by simp, by simp, rfl, by simp, by simp⟩
  | succ k ih =>
    rw [runSteps_of_step (h.step_more hr ha)]
    exact ih (h.polled (k + 1)) rfl (afterSilence_agent ha)

/-- Before its last poll the wait is still on, with its budget counted down by the polls made. -/
theorem DataPending.waits {j k : Nat} {s : State} (h : DataPending s) (hr : s.retry = k + 1)
    (ha : s.agent = silent (k + 1)) (hj : j ≤ k) :
    ∃ u, runSteps j s = .next u ∧ u.phase = s.phase ∧ u.retry = k + 1 - j := by
  induction j generalizing k s with
  | zero => exact ⟨s, rfl, rfl, hr⟩
  | succ j ih =>
    obtain ⟨k, rfl⟩ := Nat.exists_eq_succ_of_ne_zero (Nat.ne_zero_of_lt hj)
    rw [runSteps_of_step (h.step_more hr ha)]
    obtain ⟨u, hrun, hp, hretry⟩ := ih (h.polled (k + 1)) rfl (afterSilence_agent ha) (Nat.le_of_succ_le_succ hj)
    exact ⟨u, hrun, hp, by omega⟩

/-- Settles O46: every poll but the last counts, and the last one fails the loop. -/
theorem boundedWaitTimesOut : Obligations.BoundedWaitTimesOut := by
  intro k s hl hc hb hr hw ha
  have h : DataPending s := ⟨hl, hc, hb, hw⟩
  exact ⟨h.times_out hr ha, fun j => h.waits hr ha⟩

/-! ### A not-acknowledged address -/

/-- The state after a silent turn and the STOP that ends a command's last phase. -/
abbrev State.stopped (s : State) : State :=
  (((s.afterSilence.setLu s.lu.stop).setHeld false).emit .stop).setPhase .done

theorem step_stop_silent {s : State} {n : Nat} (hp : s.phase = .stop) (hl : s.luPort = none)
    (hc : s.extClken = true) (he : s.lu.enable = true) (hop : s.op ≠ opReadRegs) (ha : s.agent = silent (n + 1)) :
    step s = .next s.stopped := by
  calc step s
      = seqStep s.afterSilence := step_of_silent hl (by simp [hp]) ha
    _ = .next (afterPhase (((s.afterSilence.setLu s.lu.stop).setHeld false).emit .stop)) := seqStep_stop_ends hp hc he
    _ = .next s.stopped := congrArg _ (afterPhase_of_last (by simpa using hop))

theorem step_done_silent {s : State} {n : Nat} (hp : s.phase = .done) (hl : s.luPort = none)
    (ha : s.agent = silent (n + 1)) : step s = .next (finish s.afterSilence) := by
  obtain ⟨-, hdone⟩ := phaseAndCommandEnd s.afterSilence
  exact (step_of_silent hl (by simp [hp]) ha).trans (hdone hp)

/-- Settles O47: the poll that sees the answer, STOP and DONE, with a count of 0. -/
theorem addressNackEndsInStop : Obligations.AddressNackEndsInStop := by
  intro s hp hl hc he hd hn hb hf hop ha
  have hpoll := step_addrwait_silent hp hl hc ha
  rw [testAddrwait_of_nack (.inl hd) hn] at hpoll
  have ha₁ : (failAddr s.polled).agent = silent 2 := afterSilence_agent ha
  have ha₂ : (failAddr s.polled).stopped.agent = silent 1 := afterSilence_agent ha₁
  have hstop := step_stop_silent (failAddr_phase s.polled) (by simp [hl]) (by simp [hc]) (by simp [he])
    (by simpa using hop) ha₁
  have hdone := step_done_silent (setPhase_phase _ _) (by simp [hl]) ha₂
  rw [runSteps_of_step hpoll, runSteps_of_step hstop, runSteps_of_step hdone]
  obtain ⟨hrelease, -⟩ := s.lu.stop_busState
  refine ⟨_, rfl, by simp, by simp, by simp [hf], by simp, by simpa using hrelease hb, by simp, fun j => ?_⟩
  simp [State.bufByte]

end Sys2Proof.Machine
end
